-- ==== Sys2Proof/Word.lean ====
section
/-! DEFINITION. The words of PADCHAIN: bytes, 32-bit register words and blocks (spec/00_scope.md R11, R12). -/

namespace Sys2Proof

/-- A byte: 8 bits, an unsigned integer 0..255 (R11). -/
abbrev Byte := BitVec 8

/-- A register or command word: 32 bits, transferred whole (R65, R90). -/
abbrev Word := BitVec 32

/-- A Block: a byte sequence, index 0 first (R12).
That a block register holds exactly `B` bytes is an invariant of the machine (`State.Inv`). -/
abbrev Block := List Byte

end Sys2Proof
end

