-- ==== Sys2Proof/Config.lean ====
section
/-! DEFINITION. What an implementation fixes and what the spec leaves open: the instantiation parameters `B` and `CAP`
(R6, R7), the external cipher (R8) and the randomness source (R9). -/

namespace Sys2Proof

/-- The instantiation parameters of one instance: `B` (R6) and `CAP` (R7). -/
structure Params where
  blockSize : Nat
  capacity  : Nat
  deriving DecidableEq, Repr

/-- The two agents outside the codec, as the parameters the spec gives them.
`encByte x j` is byte `j` of `E(x)` and `decByte x j` byte `j` of `D(x)` (R8: functions of the block alone);
`draw k` is the byte the `k`-th call of `Draw()` returns, counted from 0 since reset (R9). -/
structure Env where
  encByte : Block → Nat → Byte
  decByte : Block → Nat → Byte
  draw    : Nat → Byte

/-- The external cipher's `E(x)`: a block as long as its argument (R8). -/
def Env.E (env : Env) (x : Block) : Block := (List.range x.length).map (env.encByte x)

/-- The external cipher's `D(x)`: a block as long as its argument (R8). -/
def Env.D (env : Env) (x : Block) : Block := (List.range x.length).map (env.decByte x)

/-- The named property CIPHER_INVERSE of R8 for blocks of `B` bytes. No rule of the hardware depends on it. -/
def Env.CipherInverse (env : Env) (B : Nat) : Prop := ∀ x : Block, x.length = B → env.D (env.E x) = x

namespace Config

/-- DESIGN CHOICE (log 3): the instance that `State.reset` is, the one of the spec's test vectors (95_test_vectors).
`B` and `CAP` are OPEN (R6, R7); every state carries its own, so that no statement about all states rests on these two. -/
def params : Params := { blockSize := 8, capacity := 64 }

/-- Free value (log 7): byte `j` of the external cipher's `E(x)`. -/
opaque encByte : Block → Nat → Byte

/-- Free value (log 7): byte `j` of the external cipher's `D(x)`. -/
opaque decByte : Block → Nat → Byte

/-- Free value (log 6): the byte that the `k`-th call of `Draw()` returns. -/
opaque draw : Nat → Byte

/-- The cipher and the randomness source of this machine: nothing is known of them. -/
def env : Env := { encByte := encByte, decByte := decByte, draw := draw }

end Config

end Sys2Proof
end

