-- ==== Sys2Proof/Syntax.lean ====
section
/-! DEFINITION. The command set PADCHAIN-1: one constructor per row of spec/opcode_table.json (R91).
No command carries an operand field (R92). -/

namespace Sys2Proof

/-- The eleven commands of R91. -/
inductive Instr where
  /-- `NOP` (R220). -/
  | nop
  /-- `CLRERR` (R221). -/
  | clrerr
  /-- `SRST` (R222). -/
  | srst
  /-- `LDIV` (R165). -/
  | ldiv
  /-- `START` (R166). -/
  | start
  /-- `PAD` (R130). -/
  | pad
  /-- `UNPAD` (R131). -/
  | unpad
  /-- `ENC` (R167). -/
  | enc
  /-- `DEC` (R169). -/
  | dec
  /-- `ENCF` (R201). -/
  | encf
  /-- `DECF` (R202). -/
  | decf
  deriving DecidableEq, Repr

end Sys2Proof
end

