-- ==== Sys2Proof/WellFormed.lean ====
section
/-! DEFINITION. Well-formed commands and legal instances. -/

namespace Sys2Proof

/-- R92: no command carries an immediate or an operand field, so no constructor has anything to check. -/
def Instr.wellFormed : Instr → Bool
  | .nop | .clrerr | .srst | .ldiv | .start | .pad | .unpad | .enc | .dec | .encf | .decf => true

/-- The legal instances: `B` in 1..256 (R6), `CAP` a multiple of `B` with `2·B <= CAP <= 2^20` (R7). -/
abbrev Params.Legal (p : Params) : Prop :=
  1 ≤ p.blockSize ∧ p.blockSize ≤ 256 ∧ p.capacity % p.blockSize = 0 ∧
    2 * p.blockSize ≤ p.capacity ∧ p.capacity ≤ 2 ^ 20

end Sys2Proof
end

