-- ==== Sys2Proof/Decode.lean ====
section
/-! DEFINITION. The decoder of command words, written from the opcode map of R91, and the encoder. -/

namespace Sys2Proof

/-- Why a word is illegal (R90, R93). -/
inductive DecodeError where
  /-- Bits 31:8 are not zero. -/
  | zeroField
  /-- Bits 31:8 are zero and bits 7:0 are no opcode of R91. -/
  | opcode (opc : Byte)
  deriving DecidableEq, Repr

/-- One row of the opcode map: `w` is the command of the row when `w and mask = pattern` (R91). -/
structure OpcodeRow where
  pattern : Word
  mask    : Word
  instr   : Instr
  deriving DecidableEq, Repr

/-- The opcode map of R91. -/
def opcodeTable : List OpcodeRow :=
  [ ⟨0x00000000, 0xFFFFFFFF, .nop⟩,
    ⟨0x00000001, 0xFFFFFFFF, .clrerr⟩,
    ⟨0x00000002, 0xFFFFFFFF, .srst⟩,
    ⟨0x00000010, 0xFFFFFFFF, .ldiv⟩,
    ⟨0x00000011, 0xFFFFFFFF, .start⟩,
    ⟨0x00000020, 0xFFFFFFFF, .pad⟩,
    ⟨0x00000021, 0xFFFFFFFF, .unpad⟩,
    ⟨0x00000030, 0xFFFFFFFF, .enc⟩,
    ⟨0x00000031, 0xFFFFFFFF, .dec⟩,
    ⟨0x00000032, 0xFFFFFFFF, .encf⟩,
    ⟨0x00000033, 0xFFFFFFFF, .decf⟩ ]

/-- The field `OPC` of a command word, bits 7:0 (R90). -/
def opcField (w : Word) : Byte := w.extractLsb' 0 8

/-- The field `ZERO` of a command word, bits 31:8 (R90). -/
def zeroField (w : Word) : BitVec 24 := w.extractLsb' 8 24

/-- The command a word encodes, or the reason it is illegal: a pure function of the word (R91, R93, R95). -/
def decode (w : Word) : Except DecodeError Instr :=
  match opcodeTable.find? (fun r => w &&& r.mask == r.pattern) with
  | some r => .ok r.instr
  | none => if zeroField w = 0#24 then .error (.opcode (opcField w)) else .error .zeroField

/-- The opcode of a command, column `OPC` of R91. -/
def Instr.opcode : Instr → Byte
  | .nop => 0x00
  | .clrerr => 0x01
  | .srst => 0x02
  | .ldiv => 0x10
  | .start => 0x11
  | .pad => 0x20
  | .unpad => 0x21
  | .enc => 0x30
  | .dec => 0x31
  | .encf => 0x32
  | .decf => 0x33

/-- The word of a command: `OPC` in bits 7:0, bits 31:8 zero (R90). -/
def encode (i : Instr) : Word := 0#24 ++ i.opcode

/-- The command the decoder reads from a table row's bits, as spec/opcode_table.json numbers them.
A command word is transferred whole (R65), so bit `n` of the number is bit `n` of the word (log 9);
bits above `nbits` are 0. -/
def decodeTableWord (nbits w : Nat) : Option Instr :=
  if nbits ≤ 32 ∧ w < 2 ^ nbits then
    match decode (BitVec.ofNat 32 w) with
    | .ok i => some i
    | .error _ => none
  else none

end Sys2Proof
end

