-- ==== Sys2Proof/Machine/State.lean ====
section
/-! DEFINITION. The architectural state of one instance (spec/10_state.md R20), the host actions that drive it (R61),
and its reset (R40). -/

namespace Sys2Proof.Machine

/-- The error codes 1 to 11 of R231; "no error" (0) is `none` in `State.err`. Codes 12 to 15 are never produced. -/
inductive Err where
  /-- `E_CMD` (R232). -/
  | cmd
  /-- `E_CFG` (R233). -/
  | cfg
  /-- `E_LEN` (R234). -/
  | len
  /-- `E_ALIGN` (R235). -/
  | align
  /-- `E_IVLEN` (R236). -/
  | ivlen
  /-- `E_IV` (R237). -/
  | iv
  /-- `E_CHAIN` (R238). -/
  | chain
  /-- `E_OVF` (R239). -/
  | ovf
  /-- `E_EMPTY` (R240). -/
  | empty
  /-- `E_PAD` (R241). -/
  | pad
  /-- `E_DELTA` (R242). -/
  | delta
  deriving DecidableEq, Repr

/-- The byte spaces that have a window (R60, R61). -/
inductive Space where
  | iv
  | cv
  | pv
  | buf
  | dlt
  deriving DecidableEq, Repr

/-- The four host actions (R61). An `off` is a byte offset of the register file, a `k` a byte index of a space. -/
inductive HostAction where
  /-- `RegRead(off)`. -/
  | regRead (off : Nat)
  /-- `RegWrite(off, w)`. -/
  | regWrite (off : Nat) (w : Word)
  /-- `WinRead(S, k)`. -/
  | winRead (sp : Space) (k : Nat)
  /-- `WinWrite(S, k, v)`. -/
  | winWrite (sp : Space) (k : Nat) (v : Byte)
  deriving DecidableEq, Repr

/-- What a read of the host returns (R61). -/
inductive Reply where
  /-- The 32-bit word of a `RegRead`. -/
  | word (w : Word)
  /-- The byte of a `WinRead`. -/
  | byte (b : Byte)
  deriving DecidableEq, Repr

/-- The reasons the machine stops with a fault. There is none: every event of the hardware is a command error, which is
recorded in `STATUS` and after which the machine goes on (R230, R244, R246). -/
inductive Fault where
  deriving DecidableEq, Repr

/-- The reasons a step is refused. -/
inductive Refusal where
  /-- Raised by an arm of `exec` for a command without a meaning. Safe. No arm raises it. -/
  | notModelled (mnemonic : String)
  /-- Raised by `perform` for a register access whose offset is misaligned or outside the register file: it is not a host
  action and the model has no step for it (R66, U8; log 8). Safe. -/
  | notHostAction (off : Nat)
  /-- Raised by `performAccess` for a bus access of a width or at an address that is not a host action (R63, R66; log 8).
  Safe. -/
  | notAnAccess (addr : Nat)
  deriving DecidableEq, Repr

/-- A byte memory: the bytes that differ from `Memory.unlisted`, by strictly rising address. -/
abbrev Memory := List Host.Cell

/-- The whole state of one instance (R20), and three fields of the model's own: `draws`, `pending`, `replies`. -/
structure State where
  /-- `BSIZE`: the constant `B` (R34). -/
  bsize   : Nat
  /-- `CAPR`: the constant `CAP` (R35). -/
  capr    : Nat
  /-- `CTRL.MODE`, stored as written (R28, R29). -/
  mode    : BitVec 3
  /-- `CTRL.PAD`, stored as written (R28, R29). -/
  pad     : BitVec 3
  /-- `CTRL.STRICT` (R28). -/
  strict  : Bool
  /-- `LEN` (R30). -/
  len     : BitVec 21
  /-- `DCNT` (R33). -/
  dcnt    : BitVec 21
  /-- `STATUS.ERR` (R32): `none` is code 0. -/
  err     : Option Err
  /-- `STATUS.ERRCMD` (R32). -/
  errcmd  : Byte
  /-- `STATUS.IVV` (R22). -/
  ivv     : Bool
  /-- `STATUS.CHV` (R25). -/
  chv     : Bool
  /-- `STATUS.PADBAD` (R27). -/
  padbad  : Bool
  /-- `IV` (R21). -/
  iv      : Block
  /-- `CV` (R23). -/
  cv      : Block
  /-- `PV` (R24). -/
  pv      : Block
  /-- `BUF` (R36). -/
  buf     : Memory
  /-- `DLT` (R37). -/
  dlt     : Memory
  /-- The model's own (log 6): how many calls of `Draw()` have been made. -/
  draws   : Nat
  /-- The model's own (log 1): the host actions still to come, the next one first. -/
  pending : List HostAction
  /-- The model's own (log 2): what the host's reads returned, the newest first. -/
  replies : List Reply
  deriving DecidableEq, Repr

/-- What the five memories hold after a hardware reset: unspecified by R40, an argument of the reset state (U1). -/
structure Contents where
  iv  : Block
  cv  : Block
  pv  : Block
  buf : Memory
  dlt : Memory
  deriving DecidableEq, Repr

/-- The state after a hardware reset (R40, R271), for any instance and any initial content of the five memories. -/
def State.resetOf (p : Params) (c : Contents) : State :=
  { bsize := p.blockSize, capr := p.capacity,
    mode := 0, pad := 0, strict := false, len := 0, dcnt := 0,
    err := none, errcmd := 0, ivv := false, chv := false, padbad := false,
    iv := c.iv, cv := c.cv, pv := c.pv, buf := c.buf, dlt := c.dlt,
    draws := 0, pending := [], replies := [] }

/-- DESIGN CHOICE (logs 4, 5): the initial content that `State.reset` has. -/
def Contents.zero (p : Params) : Contents :=
  { iv := List.replicate p.blockSize 0, cv := List.replicate p.blockSize 0, pv := List.replicate p.blockSize 0,
    buf := [], dlt := [] }

/-- The machine right after reset: the instance of `Config.params` with every byte of its memories 00 (logs 3, 4, 5). -/
def State.reset : State := State.resetOf Config.params (Contents.zero Config.params)

end Sys2Proof.Machine
end

