-- ==== Sys2Proof/Machine/Ops.lean ====
section
/-! DEFINITION. The named operations every meaning is made of: the byte memories, the draws, the updates of State,
raising an error and returning from it (R244, R247), and the shape of a command (R14, R223). -/

namespace Sys2Proof.Machine

/-! ## Byte memories -/

/-- DESIGN CHOICE (log 5): what an address of `BUF` or `DLT` that a memory does not list reads as. -/
def Memory.unlisted : Byte := 0x00

/-- The byte at address `a`. -/
def Memory.read : Memory → Nat → Byte
  | [], _ => Memory.unlisted
  | (b, w) :: m, a => if a = b then w else Memory.read m a

/-- `S[a] <- v`, keeping the canonical form: addresses strictly rise and no entry equals `Memory.unlisted`. -/
def Memory.write : Memory → Nat → Byte → Memory
  | [], a, v => if v = Memory.unlisted then [] else [(a, v)]
  | (b, w) :: m, a, v =>
    if a < b then
      if v = Memory.unlisted then (b, w) :: m else (a, v) :: (b, w) :: m
    else if a = b then
      if v = Memory.unlisted then m else (a, v) :: m
    else (b, w) :: Memory.write m a v

/-- `MemRead(S, a, n)`: the `n` bytes from address `a` on, lowest first (R13). -/
def Memory.readN (m : Memory) (a : Nat) : Nat → List Byte
  | 0 => []
  | n + 1 => m.read a :: m.readN (a + 1) n

/-- `MemWrite(S, a, n, v)`: writes the bytes `v` from address `a` on (R13). -/
def Memory.writeN (m : Memory) (a : Nat) : List Byte → Memory
  | [] => m
  | v :: vs => (m.write a v).writeN (a + 1) vs

/-- The `n` Blocks of `B` bytes from address `a` on: block `i` is at `a + i·B` (R12, R72). -/
def Memory.blocks (m : Memory) (a B : Nat) : Nat → List Block
  | 0 => []
  | n + 1 => m.readN a B :: m.blocks (a + B) B n

/-- The canonical form of a memory. -/
abbrev Memory.wf (m : Memory) : Prop :=
  m.Pairwise (fun x y => x.1 < y.1) ∧ ∀ c ∈ m, c.2 ≠ Memory.unlisted

/-- Every listed address lies below `cap`. -/
abbrev Memory.below (m : Memory) (cap : Nat) : Prop := ∀ c ∈ m, c.1 < cap

/-! ## The randomness source -/

/-- The bytes of `n` calls of `Draw()`, the first of them call number `k` (R9). -/
def drawn (env : Env) (k : Nat) : Nat → List Byte
  | 0 => []
  | n + 1 => env.draw k :: drawn env (k + 1) n

/-! ## Updates of State -/

/-- `LEN <- n` (R30). -/
def State.setLen (s : State) (n : Nat) : State := { s with len := BitVec.ofNat 21 n }

/-- `DCNT <- n` (R33). -/
def State.setDcnt (s : State) (n : Nat) : State := { s with dcnt := BitVec.ofNat 21 n }

/-- `STATUS.PADBAD <- b` (R132). -/
def State.setPadbad (s : State) (b : Bool) : State := { s with padbad := b }

/-- `IV` becomes `x` and is valid; the chain state derived from the old `IV` is not (R22, R25, R165). -/
def State.loadIv (s : State) (x : Block) : State := { s with iv := x, ivv := true, chv := false }

/-- `CV` and `PV` take the given Blocks (R23, R24). -/
def State.setChain (s : State) (cv pv : Block) : State := { s with cv := cv, pv := pv }

/-- `STATUS.CHV <- b` (R25). -/
def State.setChv (s : State) (b : Bool) : State := { s with chv := b }

/-- The content of `BUF`. -/
def State.setBuf (s : State) (m : Memory) : State := { s with buf := m }

/-- The content of `DLT`. -/
def State.setDlt (s : State) (m : Memory) : State := { s with dlt := m }

/-- The three fields of `CTRL` (R28). -/
def State.setCtrl (s : State) (mode pad : BitVec 3) (strict : Bool) : State :=
  { s with mode := mode, pad := pad, strict := strict }

/-- `n` calls of `Draw()` have been made (R9). -/
def State.advanceDraws (s : State) (n : Nat) : State := { s with draws := s.draws + n }

/-- A read of the host returns `r` (R61). -/
def State.answer (s : State) (r : Reply) : State := { s with replies := r :: s.replies }

/-- The host actions still to come. -/
def State.setPending (s : State) (as : List HostAction) : State := { s with pending := as }

/-- `CTRL`, `LEN`, `DCNT`, `STATUS` at their reset values; the five memories keep their bytes (R222, R270). -/
def State.softReset (s : State) : State :=
  { s with mode := 0, pad := 0, strict := false, len := 0, dcnt := 0,
           err := none, errcmd := 0, ivv := false, chv := false, padbad := false }

/-! ## Errors -/

/-- `raise E_X` (R13, R243, R244): `STATUS.ERR` takes the code, `STATUS.ERRCMD` bits 7:0 of the command word. -/
def State.raise (s : State) (e : Err) (opc : Byte) : State := { s with err := some e, errcmd := opc }

/-- The return from the error state (R221, R247): `STATUS.ERR` and `STATUS.ERRCMD` become 0. -/
def State.clearErr (s : State) : State := { s with err := none, errcmd := 0 }

/-- The error of the first failing check of a list, in its order (R14, R245). -/
def firstFailing : List (Bool × Err) → Option Err
  | [] => none
  | (failed, e) :: rest => if failed then some e else firstFailing rest

/-- A command other than `NOP`, `CLRERR`, `SRST`: dropped while an error is pending (R223), else its checks are made in
their order, and the first that fails raises its error and ends the command (R14); if none fails, `body` is its effect. -/
def State.command (s : State) (opc : Byte) (checks : List (Bool × Err)) (body : State) : State :=
  match s.err with
  | some _ => s
  | none =>
    match firstFailing checks with
    | some e => s.raise e opc
    | none => body

end Sys2Proof.Machine
end

