-- ==== Sys2Proof/Machine/Operands.lean ====
section
/-! DEFINITION. The implicit operands of the commands (R92): the selectors of `CTRL` (R98, R99), the data
`BUF[0..LEN)`, and the conditions the commands check (R233 to R242). -/

namespace Sys2Proof.Machine

/-- The seven chaining modes (R98). -/
inductive Mode where
  | ecb
  | cbc
  | pcbc
  | cfb
  | ofb
  | ctr
  | rd
  deriving DecidableEq, Repr

/-- The five padding schemes (R99). -/
inductive Scheme where
  | none
  | zeros
  | ansi
  | pkcs7
  | iso
  deriving DecidableEq, Repr

/-- The mode a `CTRL.MODE` code selects; 7 is reserved (R98). -/
def Mode.ofCode (c : BitVec 3) : Option Mode :=
  match c.toNat with
  | 0 => some .ecb
  | 1 => some .cbc
  | 2 => some .pcbc
  | 3 => some .cfb
  | 4 => some .ofb
  | 5 => some .ctr
  | 6 => some .rd
  | _ => Option.none

/-- The `CTRL.MODE` code of a mode (R98). -/
def Mode.code : Mode → BitVec 3
  | .ecb => 0
  | .cbc => 1
  | .pcbc => 2
  | .cfb => 3
  | .ofb => 4
  | .ctr => 5
  | .rd => 6

/-- The scheme a `CTRL.PAD` code selects; 5 to 7 are reserved (R99). -/
def Scheme.ofCode (c : BitVec 3) : Option Scheme :=
  match c.toNat with
  | 0 => some .none
  | 1 => some .zeros
  | 2 => some .ansi
  | 3 => some .pkcs7
  | 4 => some .iso
  | _ => Option.none

/-- The `CTRL.PAD` code of a scheme (R99). -/
def Scheme.code : Scheme → BitVec 3
  | .none => 0
  | .zeros => 1
  | .ansi => 2
  | .pkcs7 => 3
  | .iso => 4

/-- The IV-using modes (R98, R150). -/
def Mode.usesIv : Mode → Bool
  | .cbc | .pcbc | .cfb | .ofb | .ctr => true
  | .ecb | .rd => false

/-- The count-bearing schemes: the last byte of the padded data holds the pad count (R99). -/
def Scheme.countBearing : Scheme → Bool
  | .ansi | .pkcs7 | .iso => true
  | .none | .zeros => false

/-- The selected mode, none if the selector is reserved. -/
def State.selMode (s : State) : Option Mode := Mode.ofCode s.mode

/-- The selected padding scheme, none if the selector is reserved. -/
def State.selScheme (s : State) : Option Scheme := Scheme.ofCode s.pad

/-- The data operand: `BUF[0..LEN)` (R30, R92). -/
def State.data (s : State) : List Byte := s.buf.readN 0 s.len.toNat

/-- `CTRL.MODE = 7` (R233). -/
def State.modeReserved (s : State) : Bool := s.selMode.isNone

/-- `CTRL.PAD >= 5` (R233). -/
def State.padReserved (s : State) : Bool := s.selScheme.isNone

/-- A count-bearing scheme is selected. -/
def State.padCounts (s : State) : Bool := s.selScheme.any Scheme.countBearing

/-- A count-bearing scheme is selected and `B = 256` (R113, R233). -/
def State.padTooWide (s : State) : Bool := s.padCounts && decide (s.bsize = 256)

/-- `LEN > CAP` (R234). -/
def State.lenOver (s : State) : Bool := decide (s.capr < s.len.toNat)

/-- `LEN mod B != 0` (R235). -/
def State.unaligned (s : State) : Bool := decide (s.len.toNat % s.bsize ≠ 0)

/-- `CTRL.PAD = NONE` and `LEN mod B != 0` (R112, R235). -/
def State.noneUnaligned (s : State) : Bool := decide (s.selScheme = some .none) && s.unaligned

/-- A count-bearing scheme is selected and `LEN = 0` (R240). -/
def State.emptyCounted (s : State) : Bool := s.padCounts && decide (s.len.toNat = 0)

/-- An IV-using mode is selected and `STATUS.CHV = 0` (R238). -/
def State.noChain (s : State) : Bool := s.selMode.any Mode.usesIv && !s.chv

/-- `MODE = RD` and `DCNT != LEN/B` (R242). -/
def State.deltasMissing (s : State) : Bool :=
  decide (s.selMode = some .rd) && decide (s.dcnt.toNat ≠ s.len.toNat / s.bsize)

end Sys2Proof.Machine
end

