-- ==== Sys2Proof/Machine/Chaining.lean ====
section
/-! DEFINITION. The block-chaining FSM (spec/41_chaining.md): the function layer (R152 to R160), then the commands `LDIV`
(R165), `START` (R166), `ENC` (R167) and `DEC` (R169). -/

namespace Sys2Proof.Machine

/-! ## Function layer -/

/-- A chain state: the pair `(CV, PV)` of Blocks (R23, R24). -/
structure Chain where
  cv : Block
  pv : Block
  deriving DecidableEq, Repr

/-- `X xor Y`, byte by byte (R12).
DESIGN CHOICE (log 12): as long as the shorter for sequences of unequal length, which are not two Blocks. -/
def xorBlock (x y : Block) : Block := List.zipWith (· ^^^ ·) x y

/-- `int_be(x)`: the block read as a big-endian integer, byte 0 the most significant (R12). -/
def intBe : Block → Nat
  | [] => 0
  | b :: bs => b.toNat * 256 ^ bs.length + intBe bs

/-- `be_n(v)`: the `n` bytes of `v`, the most significant first (R12).
DESIGN CHOICE (log 12): R12 defines it for `v < 256^n`; this total function gives the bytes of `v mod 256^n` above that. No
command reaches that: `Inc` reduces its sum first (R159). -/
def beBytes : Nat → Nat → Block
  | 0, _ => []
  | n + 1, v => BitVec.ofNat 8 (v / 256 ^ n) :: beBytes n v

/-- `Inc(V)`: 1 is added to the big-endian integer, wrapping on overflow (R159). -/
def incBlock (v : Block) : Block := beBytes v.length ((intBe v + 1) % 256 ^ v.length)

/-- `EncBlock(mode, (CV, PV), X, Δ)` (R152 to R158). -/
def encBlock (env : Env) (m : Mode) (c : Chain) (x δ : Block) : Block × Chain :=
  match m with
  | .ecb => (env.E x, c)
  | .cbc => let y := env.E (xorBlock x c.cv); (y, { c with cv := y })
  | .pcbc => let y := env.E (xorBlock (xorBlock x c.pv) c.cv); (y, { cv := y, pv := x })
  | .cfb => let y := xorBlock x (env.E c.cv); (y, { c with cv := y })
  | .ofb => let k := env.E c.cv; (xorBlock x k, { c with cv := k })
  | .ctr => let k := env.E c.cv; (xorBlock x k, { c with cv := incBlock c.cv })
  | .rd => (env.E (xorBlock x δ), c)

/-- `DecBlock(mode, (CV, PV), X, Δ)` (R152 to R158). -/
def decBlock (env : Env) (m : Mode) (c : Chain) (x δ : Block) : Block × Chain :=
  match m with
  | .ecb => (env.D x, c)
  | .cbc => (xorBlock (env.D x) c.cv, { c with cv := x })
  | .pcbc => let y := xorBlock (xorBlock (env.D x) c.pv) c.cv; (y, { cv := x, pv := y })
  | .cfb => (xorBlock x (env.E c.cv), { c with cv := x })
  | .ofb => let k := env.E c.cv; (xorBlock x k, { c with cv := k })
  | .ctr => let k := env.E c.cv; (xorBlock x k, { c with cv := incBlock c.cv })
  | .rd => (xorBlock (env.D x) δ, c)

/-- A block step run over a sequence of (input Block, delta Block) pairs: the output Blocks and the final state (R160). -/
def chainRun (blockStep : Chain → Block → Block → Block × Chain) : Chain → List (Block × Block) → List Block × Chain
  | c, [] => ([], c)
  | c, (x, δ) :: rest =>
    let r := blockStep c x δ
    let q := chainRun blockStep r.2 rest
    (r.1 :: q.1, q.2)

/-- `ChainEnc(mode, st, s, Δ)` (R160). -/
def chainEnc (env : Env) (m : Mode) : Chain → List (Block × Block) → List Block × Chain := chainRun (encBlock env m)

/-- `ChainDec(mode, st, s, Δ)` (R160). -/
def chainDec (env : Env) (m : Mode) : Chain → List (Block × Block) → List Block × Chain := chainRun (decBlock env m)

/-! ## Command layer -/

/-- The chain state of the machine. -/
def State.chain (s : State) : Chain := { cv := s.cv, pv := s.pv }

/-- `LEN / B`: how many Blocks the data has (R167). -/
def State.blockCount (s : State) : Nat := s.len.toNat / s.bsize

/-- The (input, delta) Block pairs of a transform: block `i` of `BUF` with delta `i` of `DLT` (R167, R169). -/
def State.blockInputs (s : State) : List (Block × Block) :=
  (s.buf.blocks 0 s.bsize s.blockCount).zip (s.dlt.blocks 0 s.bsize s.blockCount)

/-- The transform of the data in place, continuing the chain: `(BUF[0..LEN), (CV, PV)) <- Chain(...)` (R167, R169, R15). -/
def State.transform (run : Chain → List (Block × Block) → List Block × Chain) (s : State) : State :=
  let r := run s.chain s.blockInputs
  (s.setBuf (s.buf.writeN 0 r.1.flatten)).setChain r.2.cv r.2.pv

/-- The delta draw of an RD encryption: `LEN/B · B` bytes into `DLT` from offset 0, `DCNT <- LEN/B` (R168). -/
def State.drawDeltas (env : Env) (s : State) : State :=
  ((s.setDlt (s.dlt.writeN 0 (drawn env s.draws (s.blockCount * s.bsize)))).advanceDraws
    (s.blockCount * s.bsize)).setDcnt s.blockCount

/-- The chaining step of `ENC` and `ENCF` (R167): in RD mode the deltas are drawn first (R168). -/
def State.encStep (env : Env) (m : Mode) (s : State) : State :=
  (if m = .rd then s.drawDeltas env else s).transform (chainEnc env m)

/-- The chaining step of `DEC` and `DECF` (R169). -/
def State.decStep (env : Env) (m : Mode) (s : State) : State := s.transform (chainDec env m)

/-- The checks of `LDIV` in their order (R165). -/
def State.ldivChecks (s : State) : List (Bool × Err) :=
  [(s.lenOver, .len), (decide (s.len.toNat ≠ s.bsize), .ivlen)]

/-- `LDIV` (R165): `IV <- BUF[0..B)`, `IVV <- 1`, `CHV <- 0`. -/
def execLdiv (s : State) : Host.Outcome State Fault Refusal :=
  .next (s.command Instr.ldiv.opcode s.ldivChecks (s.loadIv (s.buf.readN 0 s.bsize)))

/-- The checks of `START` (R166). -/
def State.startChecks (s : State) : List (Bool × Err) := [(!s.ivv, .iv)]

/-- `START` as a function of the state (R166): `CV <- IV`, `PV <- IV`, `CHV <- 1`. -/
def State.startCommand (s : State) : State :=
  s.command Instr.start.opcode s.startChecks ((s.setChain s.iv s.iv).setChv true)

/-- `START` (R166). -/
def execStart (s : State) : Host.Outcome State Fault Refusal := .next s.startCommand

/-- The checks of `ENC` in their order (R167). -/
def State.encChecks (s : State) : List (Bool × Err) :=
  [(s.modeReserved, .cfg), (s.lenOver, .len), (s.unaligned, .align), (s.noChain, .chain)]

/-- The effect of `ENC` when no check fails (R167). A reserved selector does not reach it. -/
def State.encEffect (env : Env) (s : State) : State :=
  match s.selMode with
  | some m => s.encStep env m
  | none => s

/-- `ENC` over a cipher and randomness source (R167). -/
def State.encCommand (env : Env) (s : State) : State :=
  s.command Instr.enc.opcode s.encChecks (s.encEffect env)

/-- `ENC` (R167). -/
def execEnc (s : State) : Host.Outcome State Fault Refusal := .next (s.encCommand Config.env)

/-- The checks of `DEC` in their order (R169). -/
def State.decChecks (s : State) : List (Bool × Err) :=
  [(s.modeReserved, .cfg), (s.lenOver, .len), (s.unaligned, .align), (s.noChain, .chain), (s.deltasMissing, .delta)]

/-- The effect of `DEC` when no check fails (R169). A reserved selector does not reach it. -/
def State.decEffect (env : Env) (s : State) : State :=
  match s.selMode with
  | some m => s.decStep env m
  | none => s

/-- `DEC` over a cipher (R169). -/
def State.decCommand (env : Env) (s : State) : State :=
  s.command Instr.dec.opcode s.decChecks (s.decEffect env)

/-- `DEC` (R169). -/
def execDec (s : State) : Host.Outcome State Fault Refusal := .next (s.decCommand Config.env)

end Sys2Proof.Machine
end

