-- ==== Sys2Proof/Machine/Padding.lean ====
section
/-! DEFINITION. The padding encoder and decoder (spec/40_padding.md): the function layer (R110 to R125), then the
commands `PAD` (R130) and `UNPAD` (R131). -/

namespace Sys2Proof.Machine

/-! ## Function layer -/

/-- `PadLen(scheme, L)`: how many bytes `PadApply` appends to `L` bytes (R111).
DESIGN CHOICE (log 12): R111 defines it for NONE only when `L mod B = 0`; this total function answers 0 for NONE on every
`L`. No command reaches the other case. -/
def padLen (B : Nat) (p : Scheme) (L : Nat) : Nat :=
  match p with
  | .none => 0
  | .zeros => if L % B = 0 then 0 else B - L % B
  | .ansi | .pkcs7 | .iso => B - L % B

/-- How many calls of `Draw()` the padding of `L` bytes makes: `n-1` for ISO 10126, none for any other scheme (R124). -/
def padDraws (B : Nat) (p : Scheme) (L : Nat) : Nat :=
  match p with
  | .iso => padLen B .iso L - 1
  | .none | .zeros | .ansi | .pkcs7 => 0

/-- The bytes `PadApply` appends to `L` bytes, the next call of `Draw()` being call number `k` (R114 to R117, R124).
DESIGN CHOICE (log 12): a count that no byte holds, 256 with a count-bearing scheme and `B = 256` (R113, C1), is cut to its
low 8 bits by this total function. No command reaches that: the four that use a padding raise `E_CFG` there. -/
def padBytes (env : Env) (k B : Nat) (p : Scheme) (L : Nat) : List Byte :=
  match p with
  | .none => []
  | .zeros => List.replicate (padLen B .zeros L) 0x00
  | .ansi => List.replicate (padLen B .ansi L - 1) 0x00 ++ [BitVec.ofNat 8 (padLen B .ansi L)]
  | .pkcs7 => List.replicate (padLen B .pkcs7 L) (BitVec.ofNat 8 (padLen B .pkcs7 L))
  | .iso => drawn env k (padDraws B .iso L) ++ [BitVec.ofNat 8 (padLen B .iso L)]

/-- `PadApply(scheme, s)` (R112 to R117).
DESIGN CHOICE (log 12): undefined for NONE on unaligned data (R112), where this total function gives `s`, and for a
count-bearing scheme with `B = 256` (R113). No command reaches either case. -/
def padApply (env : Env) (k B : Nat) (p : Scheme) (s : List Byte) : List Byte :=
  s ++ padBytes env k B p s.length

/-- The pad count: the last byte read as an unsigned integer (R120).
DESIGN CHOICE (log 12): 0 for the empty sequence, which has no last byte. -/
def padCount (s : List Byte) : Nat := (s.getLastD 0).toNat

/-- The range check of the count-bearing schemes: `1 <= c <= B` and `c <= L` (R120). -/
def countInRange (B : Nat) (s : List Byte) : Bool :=
  decide (1 ≤ padCount s) && decide (padCount s ≤ B) && decide (padCount s ≤ s.length)

/-- `Valid(scheme, s)` (R121 to R123). The schemes that store no count are always valid (R118, R119). -/
def padValid (B : Nat) (p : Scheme) (s : List Byte) : Bool :=
  match p with
  | .none | .zeros => true
  | .ansi => countInRange B s && ((s.drop (s.length - padCount s)).take (padCount s - 1)).all (· == 0x00)
  | .pkcs7 => countInRange B s && (s.drop (s.length - padCount s)).all (· == BitVec.ofNat 8 (padCount s))
  | .iso => countInRange B s

/-- `s` without its trailing `0x00` bytes, over the whole sequence (R119). -/
def stripZeros : List Byte → List Byte
  | [] => []
  | x :: xs =>
    match stripZeros xs with
    | [] => if x = 0x00 then [] else [x]
    | y :: ys => x :: y :: ys

/-- `PadRemove(scheme, strict, s)` (R118, R119, R125): the data and the flag `bad`, or `E_PAD`.
DESIGN CHOICE (log 12): undefined for a count-bearing scheme on the empty sequence (R120), where this total function takes
a missing last byte as 0. No command reaches that. -/
def padRemove (B : Nat) (p : Scheme) (strict : Bool) (s : List Byte) : Except Err (List Byte × Bool) :=
  match p with
  | .none => .ok (s, false)
  | .zeros => .ok (stripZeros s, false)
  | .ansi | .pkcs7 | .iso =>
    if padValid B p s then .ok (s.take (s.length - padCount s), false)
    else if strict then .error .pad
    else .ok (s, true)

/-! ## Command layer -/

/-- The padding step of `PAD` and `ENCF` for the selected scheme `p`: the pad bytes are written at `BUF[LEN..LEN+n)`,
the draws are made in increasing offset order, and `LEN <- LEN + n` (R130, R124). -/
def State.padStep (env : Env) (p : Scheme) (s : State) : State :=
  ((s.setBuf (s.buf.writeN s.len.toNat (padBytes env s.draws s.bsize p s.len.toNat))).advanceDraws
    (padDraws s.bsize p s.len.toNat)).setLen (s.len.toNat + padLen s.bsize p s.len.toNat)

/-- The removal step of `UNPAD` and `DECF` for the selected scheme `p` (R131, R132, R208), with the opcode that an `E_PAD`
records. -/
def State.removeStep (opc : Byte) (p : Scheme) (s : State) : State :=
  match padRemove s.bsize p s.strict s.data with
  | .ok (data, bad) => (s.setLen data.length).setPadbad bad
  | .error e => s.raise e opc

/-- `LEN + PadLen(CTRL.PAD, LEN) > CAP` (R239). -/
def State.padOverflows (s : State) : Bool :=
  match s.selScheme with
  | some p => decide (s.capr < s.len.toNat + padLen s.bsize p s.len.toNat)
  | none => false

/-- The checks of `PAD` in their order (R130). -/
def State.padChecks (s : State) : List (Bool × Err) :=
  [(s.padReserved, .cfg), (s.padTooWide, .cfg), (s.lenOver, .len), (s.noneUnaligned, .align), (s.padOverflows, .ovf)]

/-- The effect of `PAD` when no check fails (R130). A reserved selector does not reach it. -/
def State.padEffect (env : Env) (s : State) : State :=
  match s.selScheme with
  | some p => s.padStep env p
  | none => s

/-- `PAD` over a cipher and randomness source (R130). -/
def State.padCommand (env : Env) (s : State) : State :=
  s.command Instr.pad.opcode s.padChecks (s.padEffect env)

/-- `PAD` (R130). -/
def execPad (s : State) : Host.Outcome State Fault Refusal := .next (s.padCommand Config.env)

/-- The checks of `UNPAD` in their order (R131). -/
def State.unpadChecks (s : State) : List (Bool × Err) :=
  [(s.padReserved, .cfg), (s.padTooWide, .cfg), (s.lenOver, .len), (s.unaligned, .align), (s.emptyCounted, .empty)]

/-- The effect of `UNPAD` when no precondition fails (R131). A reserved selector does not reach it. -/
def State.unpadEffect (s : State) : State :=
  match s.selScheme with
  | some p => s.removeStep Instr.unpad.opcode p
  | none => s

/-- `UNPAD` as a function of the state (R131). -/
def State.unpadCommand (s : State) : State :=
  s.command Instr.unpad.opcode s.unpadChecks s.unpadEffect

/-- `UNPAD` (R131). -/
def execUnpad (s : State) : Host.Outcome State Fault Refusal := .next s.unpadCommand

end Sys2Proof.Machine
end

