-- ==== Sys2Proof/Machine/Composite.lean ====
section
/-! DEFINITION. The composite commands (spec/42_composite.md): `ENCF` (R201) and `DECF` (R202). -/

namespace Sys2Proof.Machine

/-- The checks of `ENCF` in their order (R201, R207). -/
def State.encfChecks (s : State) : List (Bool × Err) :=
  [(s.modeReserved, .cfg), (s.padReserved, .cfg), (s.padTooWide, .cfg), (s.lenOver, .len), (s.noneUnaligned, .align),
   (s.padOverflows, .ovf), (s.noChain, .chain)]

/-- The effect of `ENCF` when no check fails (R201): the padding step, then the chaining step.
A reserved selector does not reach it. -/
def State.encfEffect (env : Env) (s : State) : State :=
  match s.selMode, s.selScheme with
  | some m, some p => (s.padStep env p).encStep env m
  | some _, none => s
  | none, _ => s

/-- `ENCF` over a cipher and randomness source (R201). -/
def State.encfCommand (env : Env) (s : State) : State :=
  s.command Instr.encf.opcode s.encfChecks (s.encfEffect env)

/-- `ENCF` (R201). -/
def execEncf (s : State) : Host.Outcome State Fault Refusal := .next (s.encfCommand Config.env)

/-- The checks of `DECF` that come before its chaining step, in their order (R202, R207). -/
def State.decfChecks (s : State) : List (Bool × Err) :=
  [(s.modeReserved, .cfg), (s.padReserved, .cfg), (s.padTooWide, .cfg), (s.lenOver, .len), (s.unaligned, .align),
   (s.emptyCounted, .empty), (s.noChain, .chain), (s.deltasMissing, .delta)]

/-- The effect of `DECF` when no precondition fails (R202): the chaining step, then the removal step, whose `E_PAD` comes
after the buffer has been decrypted (R208). A reserved selector does not reach it. -/
def State.decfEffect (env : Env) (s : State) : State :=
  match s.selMode, s.selScheme with
  | some m, some p => (s.decStep env m).removeStep Instr.decf.opcode p
  | some _, none => s
  | none, _ => s

/-- `DECF` over a cipher (R202). -/
def State.decfCommand (env : Env) (s : State) : State :=
  s.command Instr.decf.opcode s.decfChecks (s.decfEffect env)

/-- `DECF` (R202). -/
def execDecf (s : State) : Host.Outcome State Fault Refusal := .next (s.decfCommand Config.env)

end Sys2Proof.Machine
end

