-- ==== Sys2Proof/Machine/System.lean ====
section
/-! DEFINITION. The system commands (spec/43_system.md): they execute whether or not an error is pending (R223). -/

namespace Sys2Proof.Machine

/-- `NOP` (R220): no state changes. -/
def execNop (s : State) : Host.Outcome State Fault Refusal := .next s

/-- `CLRERR` (R221): `STATUS.ERR <- 0`, `STATUS.ERRCMD <- 0`. -/
def execClrerr (s : State) : Host.Outcome State Fault Refusal := .next s.clearErr

/-- `SRST` (R222): `CTRL`, `LEN`, `DCNT`, `STATUS` become 0. -/
def execSrst (s : State) : Host.Outcome State Fault Refusal := .next s.softReset

end Sys2Proof.Machine
end

