-- ==== Sys2Proof/Machine/Flags.lean ====
section
/-! DEFINITION. The register words: `STATUS` and `CTRL` as the host reads them, and what a write to `CTRL` does
(spec/10_state.md R28 to R35). -/

namespace Sys2Proof.Machine

/-- The code of an error in `STATUS.ERR` (R231). -/
def Err.code : Err → BitVec 4
  | .cmd => 1
  | .cfg => 2
  | .len => 3
  | .align => 4
  | .ivlen => 5
  | .iv => 6
  | .chain => 7
  | .ovf => 8
  | .empty => 9
  | .pad => 10
  | .delta => 11

/-- The field `STATUS.ERR`: 0 when there is no error (R231, R32). -/
def State.errField (s : State) : BitVec 4 :=
  match s.err with
  | none => 0
  | some e => e.code

/-- The word `STATUS` (R32): `ERR` in 3:0, `IVV` 4, `CHV` 5, `PADBAD` 6, `ERRCMD` in 15:8, the other bits 0. -/
def State.statusWord (s : State) : Word :=
  0#16 ++ s.errcmd ++ 0#1 ++ BitVec.ofBool s.padbad ++ BitVec.ofBool s.chv ++ BitVec.ofBool s.ivv ++ s.errField

/-- The word `CTRL` (R28): `MODE` in 2:0, `PAD` in 6:4, `STRICT` 8, the other bits 0. -/
def State.ctrlWord (s : State) : Word :=
  0#23 ++ BitVec.ofBool s.strict ++ 0#1 ++ s.pad ++ 0#1 ++ s.mode

/-- The word `LEN` (R30). -/
def State.lenWord (s : State) : Word := 0#11 ++ s.len

/-- The word `DCNT` (R33). -/
def State.dcntWord (s : State) : Word := 0#11 ++ s.dcnt

/-- The word `BSIZE` (R34). -/
def State.bsizeWord (s : State) : Word := BitVec.ofNat 32 s.bsize

/-- The word `CAPR` (R35). -/
def State.caprWord (s : State) : Word := BitVec.ofNat 32 s.capr

/-- A write of `w` to `CTRL` (R29): `CHV` is cleared if `MODE` changes, then the three fields take their bits of `w`. -/
def State.writeCtrl (s : State) (w : Word) : State :=
  (if w.extractLsb' 0 3 = s.mode then s else s.setChv false).setCtrl
    (w.extractLsb' 0 3) (w.extractLsb' 4 3) (w.getLsbD 8)

end Sys2Proof.Machine
end

