-- ==== Sys2Proof/Machine/Bus.lean ====
section
/-! DEFINITION. The four host actions (spec/20_memory.md R61): the register file (R62, R64), the windows (R67 to R69), the
command port (R31, R93), and the address map of the aperture (R62, R63, R66). -/

namespace Sys2Proof.Machine

/-! ## Registers -/

/-- What a `RegRead` of an aligned offset of the register file returns (R28 to R35, R62); reserved offsets return 0 (R64). -/
def State.regValue (s : State) (off : Nat) : Word :=
  match off with
  | 0x00 => s.ctrlWord
  | 0x04 => s.lenWord
  | 0x08 => 0
  | 0x0C => s.statusWord
  | 0x10 => s.dcntWord
  | 0x14 => s.bsizeWord
  | 0x18 => s.caprWord
  | _ => 0

/-- What a `RegWrite` to an offset other than `CMD` does: `CTRL`, `LEN`, `DCNT` are written (R29, R30, R33); `STATUS`,
`BSIZE`, `CAPR` and the reserved offsets ignore the write (R32, R34, R35, R64). -/
def State.writeReg (s : State) (off : Nat) (w : Word) : State :=
  match off with
  | 0x00 => s.writeCtrl w
  | 0x04 => s.setLen (w.extractLsb' 0 21).toNat
  | 0x10 => s.setDcnt (w.extractLsb' 0 21).toNat
  | _ => s

/-- The offset of `CMD` (R62). -/
def cmdOffset : Nat := 0x08

/-- An illegal word written to `CMD`: `E_CMD` with bits 7:0 of the word, or dropped while an error is pending (R93, R232,
R246). -/
def State.illegalCommand (s : State) (w : Word) : State := s.command (opcField w) [(true, .cmd)] s

/-- A write of `w` to `CMD` executes the command `w` encodes (R31, R90, R93). -/
def issue (w : Word) (s : State) : Host.Outcome State Fault Refusal :=
  match decode w with
  | .ok i => exec i s
  | .error _ => .next (s.illegalCommand w)

/-! ## Windows -/

/-- How many bytes of a space are valid (R60, R63). -/
def State.spaceSize (s : State) : Space → Nat
  | .iv | .cv | .pv => s.bsize
  | .buf | .dlt => s.capr

/-- Byte `k` of a space, `k` in its valid range. -/
def State.spaceByte (s : State) (sp : Space) (k : Nat) : Byte :=
  match sp with
  | .iv => s.iv.getD k 0
  | .cv => s.cv.getD k 0
  | .pv => s.pv.getD k 0
  | .buf => s.buf.read k
  | .dlt => s.dlt.read k

/-- What a `WinRead` returns: the byte, or 0 outside the valid range (R64, R67 to R69). -/
def State.winValue (s : State) (sp : Space) (k : Nat) : Byte :=
  if k < s.spaceSize sp then s.spaceByte sp k else 0

/-- What a `WinWrite` does: `BUF` and `DLT` take the byte; a write outside the valid range or to `IV`, `CV`, `PV` is ignored
(R61, R64, R67 to R69). -/
def State.writeWin (s : State) (sp : Space) (k : Nat) (v : Byte) : State :=
  if k < s.spaceSize sp then
    match sp with
    | .buf => s.setBuf (s.buf.write k v)
    | .dlt => s.setDlt (s.dlt.write k v)
    | .iv | .cv | .pv => s
  else s

/-! ## Host actions -/

/-- An aligned word of the register file, offsets 0x00 to 0xFC (R62, R66).
DEDUCED (log 8): an aligned word access to the reserved range 0x400 to 0x0FFFFF of the aperture is none of these, since R66
gives word accesses to registers alone and R63 lists the range in the table of the window ranges; it is refused. -/
def regAccess (off : Nat) : Bool := decide (off % 4 = 0) && decide (off < 0x100)

/-- Is this a host action at all? Registers are accessed only as aligned words of the register file; a window takes any
index (R61, R64, R66). -/
def HostAction.legal : HostAction → Bool
  | .regRead off => regAccess off
  | .regWrite off _ => regAccess off
  | .winRead _ _ => true
  | .winWrite _ _ _ => true

/-- One host action (R61). -/
def perform (a : HostAction) (s : State) : Host.Outcome State Fault Refusal :=
  match a with
  | .regRead off => if regAccess off then .next (s.answer (.word (s.regValue off))) else .refused (.notHostAction off)
  | .regWrite off w =>
    if regAccess off then
      if off = cmdOffset then issue w s else .next (s.writeReg off w)
    else .refused (.notHostAction off)
  | .winRead sp k => .next (s.answer (.byte (s.winValue sp k)))
  | .winWrite sp k v => .next (s.writeWin sp k v)

/-! ## The address map of the aperture -/

/-- The widths a bus can have (R66). -/
inductive Width where
  | byte
  | half
  | word
  deriving DecidableEq, Repr

/-- An access to the aperture at a byte address relative to `BASE`; a byte write carries its byte in bits 7:0. -/
inductive Access where
  | read (width : Width) (addr : Nat)
  | write (width : Width) (addr : Nat) (data : Word)
  deriving DecidableEq, Repr

/-- The base of a window (R63). -/
def Space.base : Space → Nat
  | .iv => 0x000100
  | .cv => 0x000200
  | .pv => 0x000300
  | .buf => 0x100000
  | .dlt => 0x200000

/-- The space and index a byte address of the aperture stands for (R63).
DEDUCED (log 8): the reserved range 0x400 to 0x0FFFFF is taken as indices of `PV` above its valid range, which read 0 and
ignore writes, as R64 says of reserved locations. -/
def windowOf (addr : Nat) : Option (Space × Nat) :=
  if addr < 0x100 then none
  else if addr < 0x200 then some (.iv, addr - 0x100)
  else if addr < 0x300 then some (.cv, addr - 0x200)
  else if addr < 0x100000 then some (.pv, addr - 0x300)
  else if addr < 0x200000 then some (.buf, addr - 0x100000)
  else if addr < 0x300000 then some (.dlt, addr - 0x200000)
  else none

/-- The host action an access is: words in the register file, bytes in the windows, anything else is none (R62, R63, R66). -/
def Access.toAction : Access → Option HostAction
  | .read .word a => if regAccess a then some (.regRead a) else none
  | .write .word a d => if regAccess a then some (.regWrite a d) else none
  | .read .byte a => (windowOf a).map fun w => .winRead w.1 w.2
  | .write .byte a d => (windowOf a).map fun w => .winWrite w.1 w.2 (d.extractLsb' 0 8)
  | .read .half _ => none
  | .write .half _ _ => none

/-- The address of an access. -/
def Access.addr : Access → Nat
  | .read _ a => a
  | .write _ a _ => a

/-- An access through a memory-mapped bus binding: its host action, or refused (R63, R66). -/
def performAccess (x : Access) (s : State) : Host.Outcome State Fault Refusal :=
  match x.toAction with
  | some a => perform a s
  | none => .refused (.notAnAccess x.addr)

end Sys2Proof.Machine
end

