-- ==== Sys2Proof/Machine/Step.lean ====
section
/-! DEFINITION. One step: the next host action takes effect, completely, before the one after it (R61, R74, R75). -/

namespace Sys2Proof.Machine

/-- One step. With no host action left nothing happens: the codec initiates nothing (R26, R75; log 1). -/
def step (s : State) : Host.Outcome State Fault Refusal :=
  match s.pending with
  | [] => .next s
  | a :: rest => perform a (s.setPending rest)

/-- The state in which the next host action writes a command word to `CMD` (R31, R77; log 1): there is no program counter and
no instruction memory, a command is the word the host writes. -/
def State.withFetchWord (s : State) (_nbits w : Nat) : State :=
  s.setPending (.regWrite cmdOffset (BitVec.ofNat 32 w) :: s.pending)

end Sys2Proof.Machine
end

