-- ==== Sys2Proof/Machine/Program.lean ====
section
/-! DEFINITION. The host-program notation (spec/30_encoding.md R96, R97) as lists of host actions. -/

namespace Sys2Proof.Machine

/-- The register names of R62. -/
inductive Reg where
  | ctrl
  | len
  | cmd
  | status
  | dcnt
  | bsize
  | capr
  deriving DecidableEq, Repr

/-- The offset of a register (R62). -/
def Reg.offset : Reg → Nat
  | .ctrl => 0x00
  | .len => 0x04
  | .cmd => 0x08
  | .status => 0x0C
  | .dcnt => 0x10
  | .bsize => 0x14
  | .capr => 0x18

/-- `wr REG, value` (R96). -/
def lineWr (r : Reg) (v : Word) : HostAction := .regWrite r.offset v

/-- `rd REG` (R96). -/
def lineRd (r : Reg) : HostAction := .regRead r.offset

/-- `wb S+k, b0` and so on for the bytes that follow, from index `k` up (R96, R97). -/
def lineWb (sp : Space) (k : Nat) : List Byte → List HostAction
  | [] => []
  | b :: bs => .winWrite sp k b :: lineWb sp (k + 1) bs

/-- `cmd M` (R97). -/
def lineCmd (i : Instr) : List HostAction := [lineWr .cmd (encode i)]

/-- `cfg MODE, PAD, STRICT`: `wr CTRL, code(MODE) + 16·code(PAD) + 256·STRICT` (R97). -/
def lineCfg (m : Mode) (p : Scheme) (strict : Bool) : List HostAction :=
  [lineWr .ctrl (BitVec.ofNat 32 (m.code.toNat + 16 * p.code.toNat + 256 * strict.toNat))]

/-- `load b0 ... b(n-1)` (R97). -/
def lineLoad (bs : List Byte) : List HostAction :=
  lineWb .buf 0 bs ++ [lineWr .len (BitVec.ofNat 32 bs.length)]

/-- `loaddlt b0 ... b(m-1)` on an instance of block size `B` (R97). -/
def lineLoaddlt (B : Nat) (bs : List Byte) : List HostAction :=
  lineWb .dlt 0 bs ++ [lineWr .dcnt (BitVec.ofNat 32 (bs.length / B))]

/-- `setiv b0 ... b(B-1)` (R97). -/
def lineSetiv (bs : List Byte) : List HostAction := lineLoad bs ++ lineCmd .ldiv

/-- The reads of the `n` bytes of a space from index `k` up. -/
def lineRb (sp : Space) (k : Nat) : Nat → List HostAction
  | 0 => []
  | n + 1 => .winRead sp k :: lineRb sp (k + 1) n

/-- The host actions of `expect b0 ... b(n-1)` (R97). -/
def lineExpect (bs : List Byte) : List HostAction := lineRd .len :: lineRb .buf 0 bs.length

/-- The replies `expect b0 ... b(n-1)` expects, in the order of its reads (R97). -/
def expectReplies (bs : List Byte) : List Reply := .word (BitVec.ofNat 32 bs.length) :: bs.map .byte

end Sys2Proof.Machine
end

