-- ==== Sys2Proof/Machine/Reference.lean ====
section
/-! DEFINITION. The second formulations the spec gives of the same behaviour: the byte-wise counter (R159), the in-place
block loop (R73, R162), the XOR data path with its multiplexers (R161). The meanings do not use them; statements compare
the meanings with them. -/

namespace Sys2Proof.Machine

/-- The byte-wise add of 1 of R159: the carry out of a block, and the block after it. -/
def incCarry : Block → Bool × Block
  | [] => (true, [])
  | b :: bs =>
    let r := incCarry bs
    if r.1 then (decide (b + 1 = 0), (b + 1) :: r.2) else (false, b :: r.2)

/-- `Inc(V)` byte by byte from `V[B-1]` towards `V[0]` (R159). -/
def incBytes (v : Block) : Block := (incCarry v).2

/-- The transform loop of R73 and R162 from block `i` on, over `n` blocks: load block `i`, apply the block step, store the
output over the input, update the chain state. -/
def State.inPlaceLoop (blockStep : Chain → Block → Block → Block × Chain) (i : Nat) : Nat → State → State
  | 0, s => s
  | n + 1, s =>
    let r := blockStep s.chain (s.buf.readN (i * s.bsize) s.bsize) (s.dlt.readN (i * s.bsize) s.bsize)
    State.inPlaceLoop blockStep (i + 1) n
      ((s.setBuf (s.buf.writeN (i * s.bsize) r.1)).setChain r.2.cv r.2.pv)

/-- The `n` blocks of `B` bytes that a byte sequence begins with. -/
def chunks (B : Nat) : Nat → List Byte → List Block
  | 0, _ => []
  | n + 1, l => l.take B :: chunks B n (l.drop B)

/-- The direction of a transform. -/
inductive Dir where
  | enc
  | dec
  deriving DecidableEq, Repr

/-- Column "Cipher fn" of R161: does this mode and direction call `D`? -/
def usesD (m : Mode) (d : Dir) : Bool :=
  match d, m with
  | .dec, .ecb | .dec, .cbc | .dec, .pcbc | .dec, .rd => true
  | .dec, .cfb | .dec, .ofb | .dec, .ctr => false
  | .enc, .ecb | .enc, .cbc | .enc, .pcbc | .enc, .cfb | .enc, .ofb | .enc, .ctr | .enc, .rd => false

/-- Column "Cipher input" of R161: the multiplexer and the XOR stage before the cipher. -/
def cipherInput (m : Mode) (d : Dir) (c : Chain) (x δ : Block) : Block :=
  match m, d with
  | .cfb, _ | .ofb, _ | .ctr, _ => c.cv
  | .cbc, .enc => xorBlock x c.cv
  | .pcbc, .enc => xorBlock (xorBlock x c.pv) c.cv
  | .rd, .enc => xorBlock x δ
  | .ecb, _ | .cbc, .dec | .pcbc, .dec | .rd, .dec => x

/-- Column "Output Y" of R161: the XOR stage after the cipher, whose output is `z`. -/
def pathOutput (m : Mode) (d : Dir) (c : Chain) (x δ z : Block) : Block :=
  match m, d with
  | .cfb, _ | .ofb, _ | .ctr, _ => xorBlock x z
  | .cbc, .dec => xorBlock z c.cv
  | .pcbc, .dec => xorBlock (xorBlock z c.pv) c.cv
  | .rd, .dec => xorBlock z δ
  | .ecb, _ | .cbc, .enc | .pcbc, .enc | .rd, .enc => z

/-- Columns `CV'` and `PV'` of R161. -/
def nextChain (m : Mode) (d : Dir) (c : Chain) (x y z : Block) : Chain :=
  match m, d with
  | .ecb, _ | .rd, _ => c
  | .cbc, .enc | .cfb, .enc => { c with cv := y }
  | .cbc, .dec | .cfb, .dec => { c with cv := x }
  | .pcbc, .enc => { cv := y, pv := x }
  | .pcbc, .dec => { cv := x, pv := y }
  | .ofb, _ => { c with cv := z }
  | .ctr, _ => { c with cv := incBlock c.cv }

/-- One block through the XOR data path of R161. -/
def dataPath (env : Env) (m : Mode) (d : Dir) (c : Chain) (x δ : Block) : Block × Chain :=
  let u := cipherInput m d c x δ
  let z := if usesD m d then env.D u else env.E u
  let y := pathOutput m d c x δ z
  (y, nextChain m d c x y z)

end Sys2Proof.Machine
end

