-- ==== Sys2Proof/Safety.lean ====
section
/-! DEFINITION. What claims are stated in: the invariant of the machine (spec/10_state.md R39 and the sizes of R20), what a
successful run is (R246), what a command's preconditions are (spec/60_exceptions.md), and runs of several commands. -/

namespace Sys2Proof.Machine

/-- The instance is a legal one (R6, R7). -/
abbrev State.LegalInstance (s : State) : Prop := Params.Legal { blockSize := s.bsize, capacity := s.capr }

/-- The block registers hold one Block each (R21, R23, R24). -/
abbrev State.BlocksSized (s : State) : Prop :=
  s.iv.length = s.bsize ∧ s.cv.length = s.bsize ∧ s.pv.length = s.bsize

/-- `BUF` and `DLT` are in canonical form and lie inside their `CAP` bytes (R36, R37). -/
abbrev State.MemoriesOk (s : State) : Prop :=
  s.buf.wf ∧ s.buf.below s.capr ∧ s.dlt.wf ∧ s.dlt.below s.capr

/-- R39 (I-1) and (I-2): a valid chain has a valid IV, and no error records no opcode. -/
abbrev State.FlagsOk (s : State) : Prop :=
  (s.chv = true → s.ivv = true) ∧ (s.err = none → s.errcmd = 0)

/-- The invariant of the machine. -/
abbrev State.Inv (s : State) : Prop := s.LegalInstance ∧ s.BlocksSized ∧ s.MemoriesOk ∧ s.FlagsOk

/-- The initial content of the memories fits the instance. -/
abbrev Contents.Fits (c : Contents) (p : Params) : Prop :=
  (c.iv.length = p.blockSize ∧ c.cv.length = p.blockSize ∧ c.pv.length = p.blockSize) ∧
    c.buf.wf ∧ c.buf.below p.capacity ∧ c.dlt.wf ∧ c.dlt.below p.capacity

/-- R246: `ERR != 0` is the fault mark of a run. -/
abbrev State.Succeeded (s : State) : Prop := s.err = none

/-- The place of an error in the fixed priority of R245: a smaller number is reported first. -/
def Err.rank : Err → Nat
  | .cmd => 0
  | .cfg => 1
  | .len => 2
  | .ivlen => 3
  | .align => 4
  | .empty => 5
  | .ovf => 6
  | .iv => 7
  | .chain => 8
  | .delta => 9
  | .pad => 10

/-- The command's precondition that an error reports is violated in `s`, written from the error's own rule (R233 to R240,
R242) and not from the commands' checks. `E_CMD` is no error of a legal command (R232), and `E_PAD` is no precondition
(R241). -/
def Violates (i : Instr) (e : Err) (s : State) : Prop :=
  match e with
  | .cmd => False
  | .cfg =>
    (i ∈ [Instr.enc, .dec, .encf, .decf] ∧ s.mode = 7) ∨
      (i ∈ [Instr.pad, .unpad, .encf, .decf] ∧
        (5 ≤ s.pad.toNat ∨ ((s.pad = 2 ∨ s.pad = 3 ∨ s.pad = 4) ∧ s.bsize = 256)))
  | .len => i ∈ [Instr.ldiv, .pad, .unpad, .enc, .dec, .encf, .decf] ∧ s.capr < s.len.toNat
  | .align =>
    (i ∈ [Instr.enc, .dec, .decf, .unpad] ∨ (i ∈ [Instr.pad, .encf] ∧ s.pad = 0)) ∧ s.len.toNat % s.bsize ≠ 0
  | .ivlen => i = .ldiv ∧ s.len.toNat ≠ s.bsize
  | .iv => i = .start ∧ s.ivv = false
  | .chain =>
    i ∈ [Instr.enc, .dec, .encf, .decf] ∧ (1 ≤ s.mode.toNat ∧ s.mode.toNat ≤ 5) ∧ s.chv = false
  | .ovf =>
    i ∈ [Instr.pad, .encf] ∧
      ∃ p, Scheme.ofCode s.pad = some p ∧ s.capr < s.len.toNat + padLen s.bsize p s.len.toNat
  | .empty => i ∈ [Instr.unpad, .decf] ∧ (s.pad = 2 ∨ s.pad = 3 ∨ s.pad = 4) ∧ s.len = 0
  | .pad => False
  | .delta => i ∈ [Instr.dec, .decf] ∧ s.mode = 6 ∧ s.dcnt.toNat ≠ s.len.toNat / s.bsize

/-- The commands `is`, one after the other, lead from `s` to `t`. -/
def CommandsFrom : List Instr → State → State → Prop
  | [], s, t => s = t
  | i :: is, s, t => ∃ u, exec i s = .next u ∧ CommandsFrom is u t

/-- The effect of the pseudo-line `load d` of R97: the bytes at `BUF[0..)` and their number in `LEN`. -/
def State.loaded (s : State) (d : List Byte) : State := (s.setBuf (s.buf.writeN 0 d)).setLen d.length

/-- The effect of the pseudo-line `loaddlt d` of R97: the bytes at `DLT[0..)` and the number of their blocks in `DCNT`. -/
def State.loadedDeltas (s : State) (d : List Byte) : State :=
  (s.setDlt (s.dlt.writeN 0 d)).setDcnt (d.length / s.bsize)

end Sys2Proof.Machine
end

