-- ==== Sys2Proof/Certificates/Slice0/Obligations.lean ====
section
/-! DEFINITION. The statements about PADCHAIN, one `def Obligations.<Name> : Prop` each, from the numbered rules of spec/. -/

open Sys2Proof Sys2Proof.Machine

/-! ## Decoding and the step -/

/-- R91: the opcode map, and a word is the command of a row exactly when it is that row's word. -/
def Obligations.DecodeIsTheOpcodeMap : Prop :=
  (encode .nop = 0x00000000#32 ∧ encode .clrerr = 0x00000001#32 ∧ encode .srst = 0x00000002#32 ∧
    encode .ldiv = 0x00000010#32 ∧ encode .start = 0x00000011#32 ∧ encode .pad = 0x00000020#32 ∧
    encode .unpad = 0x00000021#32 ∧ encode .enc = 0x00000030#32 ∧ encode .dec = 0x00000031#32 ∧
    encode .encf = 0x00000032#32 ∧ encode .decf = 0x00000033#32) ∧
  ∀ (w : Word) (i : Instr), decode w = .ok i ↔ w = encode i

/-- R93, R232: the illegal words are those with a bit of 31:8 set and those whose bits 7:0 are no opcode; written to `CMD`
they raise `E_CMD` when no error is pending and are dropped otherwise. -/
def Obligations.IllegalWordsRaiseOrAreDropped : Prop :=
  ∀ w : Word,
    ((∃ e, decode w = .error e) ↔
      (w.extractLsb' 8 24 ≠ 0 ∨
        w.extractLsb' 0 8 ∉ [0x00#8, 0x01, 0x02, 0x10, 0x11, 0x20, 0x21, 0x30, 0x31, 0x32, 0x33])) ∧
    ∀ (e : DecodeError) (s : State), decode w = .error e →
      (s.err = none → perform (.regWrite 0x08 w) s = .next { s with err := some .cmd, errcmd := w.extractLsb' 0 8 }) ∧
      (s.err ≠ none → perform (.regWrite 0x08 w) s = .next s)

/-- R91, and section 7.1 of 95_test_vectors: one word of every family, and words that are no command. -/
def Obligations.SampleWordsDecode : Prop :=
  decode 0x00000001#32 = .ok .clrerr ∧ decode 0x00000010#32 = .ok .ldiv ∧ decode 0x00000020#32 = .ok .pad ∧
    decode 0x00000031#32 = .ok .dec ∧ decode 0x00000032#32 = .ok .encf ∧
    decode 0x00000130#32 = .error .zeroField ∧ decode 0x00000100#32 = .error .zeroField ∧
    decode 0x00000003#32 = .error (.opcode 0x03) ∧ decode 0xFFFFFFFF#32 = .error .zeroField ∧
    decode 0x80000000#32 = .error .zeroField

/-- R31, R75: a step takes the next host action and nothing else; a command word written to `CMD` runs its command on the
state without that action, and with no action left nothing happens (log 1). -/
def Obligations.StepRunsTheDecodedCommand : Prop :=
  (∀ (s : State) (w : Word) (i : Instr) (rest : List HostAction),
    s.pending = .regWrite 0x08 w :: rest → decode w = .ok i → i.wellFormed = true →
      step s = exec i { s with pending := rest }) ∧
  (∀ (s : State) (i : Instr), step (s.withFetchWord 32 (encode i).toNat) = exec i s) ∧
  (∀ (s : State) (a : HostAction) (rest : List HostAction),
    s.pending = a :: rest → step s = perform a { s with pending := rest }) ∧
  ∀ s : State, s.pending = [] → step s = .next s

/-- R61, R66: every host action takes effect, whatever the state; what is not a host action is refused by name. -/
def Obligations.EveryHostActionTakesEffect : Prop :=
  ∀ (a : HostAction) (s : State),
    (a.legal = true → ∃ t, perform a s = .next t) ∧
    (a.legal = false → ∃ off, perform a s = .refused (.notHostAction off))

/-! ## System commands and errors -/

/-- R220. -/
def Obligations.NopChangesNothing : Prop :=
  decode 0x00000000#32 = .ok .nop ∧ decode 0x00000100#32 ≠ .ok .nop ∧ ∀ s : State, exec .nop s = .next s

/-- R221: `ERR` and `ERRCMD` are cleared, everything else stays, with or without a pending error. -/
def Obligations.ClrerrClearsTheError : Prop :=
  decode 0x00000001#32 = .ok .clrerr ∧
  ∀ s : State, exec .clrerr s = .next { s with err := none, errcmd := 0 } ∧
    State.statusWord { s with err := none, errcmd := 0 } = s.statusWord &&& 0x00000070#32 ∧
    (s.err = none → s.FlagsOk → exec .clrerr s = .next s)

/-- R222. -/
def Obligations.SrstResetsTheRegisters : Prop :=
  decode 0x00000002#32 = .ok .srst ∧
  ∀ s : State, ∃ t : State, exec .srst s = .next t ∧
    t.ctrlWord = 0 ∧ t.lenWord = 0 ∧ t.dcntWord = 0 ∧ t.statusWord = 0 ∧
    t = { s with mode := 0, pad := 0, strict := false, len := 0, dcnt := 0, err := none, errcmd := 0,
                 ivv := false, chv := false, padbad := false }

/-- R223: what a pending error drops, and that it disturbs no register or window access: every host action that is no `CMD`
write gives the next state, the host's reply included, that it gives without the error, `ERR` and `ERRCMD` apart; a read of
`STATUS`, where they stand, replies with the word that shows them. -/
def Obligations.PendingErrorDropsCommands : Prop :=
  ∀ s : State, s.err ≠ none →
    (∀ i : Instr, i ≠ .nop → i ≠ .clrerr → i ≠ .srst → exec i s = .next s) ∧
    (exec .nop s = .next s ∧ exec .clrerr s = .next s.clearErr ∧ exec .srst s = .next s.softReset) ∧
    (∀ (w : Word) (e : DecodeError), decode w = .error e → perform (.regWrite 0x08 w) s = .next s) ∧
    (∀ a : HostAction, a.legal = true → (∀ w, a ≠ .regWrite 0x08 w) → a ≠ .regRead 0x0C →
      ∃ u : State, perform a { s with err := none, errcmd := 0 } = .next u ∧
        perform a s = .next { u with err := s.err, errcmd := s.errcmd }) ∧
    perform (.regRead 0x0C) s = .next { s with replies := .word s.statusWord :: s.replies } ∧
    s.statusWord.extractLsb' 0 4 ≠ 0 ∧ s.statusWord.extractLsb' 8 8 = s.errcmd ∧
    s.statusWord &&& 0x00000070#32 = State.statusWord { s with err := none, errcmd := 0 }

/-- R243, R244: what is recorded with an error, and that nothing else changes but for `E_PAD` from `DECF`. -/
def Obligations.ErrorsChangeNothingElse : Prop :=
  ∀ (w : Word) (s t : State) (e : Err), s.err = none → perform (.regWrite 0x08 w) s = .next t → t.err = some e →
    t.errcmd = w.extractLsb' 0 8 ∧
    (¬ (w = encode .decf ∧ e = .pad) → t = { s with err := some e, errcmd := w.extractLsb' 0 8 })

/-- R221, R247, R248: after any error but `E_PAD` from `DECF`, `CLRERR` gives back the state before the failing command. -/
def Obligations.ClrerrRestoresTheStateBeforeTheError : Prop :=
  ∀ (w : Word) (s t : State) (e : Err), s.FlagsOk → s.err = none → perform (.regWrite 0x08 w) s = .next t →
    t.err = some e → ¬ (w = encode .decf ∧ e = .pad) → exec .clrerr t = .next s

/-- R233 to R240, R242, R245: a command reports the first precondition it violates in the fixed priority, and only that. -/
def Obligations.FirstViolatedPreconditionIsReported : Prop :=
  ∀ (i : Instr) (s : State) (e : Err), s.err = none → e ≠ .pad →
    ((∃ t, exec i s = .next t ∧ t.err = some e) ↔
      (Violates i e s ∧ ∀ e' : Err, e'.rank < e.rank → ¬ Violates i e' s))

/-- R94: the commands that use a reserved selector raise `E_CFG`; a command does not see a selector that it does not use,
whatever that holds. `ENC` in RandomDelta and `PAD` under ISO draw: their clauses compare two runs that see the same stream
of draws, which is the model's choice (log 6). -/
def Obligations.ReservedSelectorsAreRefused : Prop :=
  ∀ s : State, s.err = none →
    (s.mode = 7 → ∀ i ∈ [Instr.enc, .dec, .encf, .decf],
      exec i s = .next { s with err := some .cfg, errcmd := i.opcode }) ∧
    (5 ≤ s.pad.toNat → ∀ i ∈ [Instr.pad, .unpad, .encf, .decf],
      exec i s = .next { s with err := some .cfg, errcmd := i.opcode }) ∧
    (∀ i ∈ [Instr.nop, .clrerr, .srst, .ldiv, .start], ∀ m p : BitVec 3,
      ∃ t u : State, exec i s = .next t ∧ exec i { s with mode := m, pad := p } = .next u ∧
        { t with mode := 0, pad := 0 } = { u with mode := 0, pad := 0 }) ∧
    (∀ i ∈ [Instr.enc, .dec], ∀ p : BitVec 3,
      ∃ t : State, exec i s = .next t ∧ exec i { s with pad := p } = .next { t with pad := p }) ∧
    ∀ i ∈ [Instr.pad, .unpad], ∀ m : BitVec 3,
      ∃ t : State, exec i s = .next t ∧ exec i { s with mode := m } = .next { t with mode := m }

/-! ## The IV and the chain -/

/-- R165. -/
def Obligations.LdivLoadsTheIv : Prop :=
  decode 0x00000010#32 = .ok .ldiv ∧
  ∀ s : State, s.err = none →
    (s.len.toNat = s.bsize → s.bsize ≤ s.capr →
      exec .ldiv s = .next { s with iv := (List.range s.bsize).map s.buf.read, ivv := true, chv := false }) ∧
    (s.capr < s.len.toNat → exec .ldiv s = .next { s with err := some .len, errcmd := 0x10 }) ∧
    (s.len.toNat ≤ s.capr → s.len.toNat ≠ s.bsize → exec .ldiv s = .next { s with err := some .ivlen, errcmd := 0x10 })

/-- R166. -/
def Obligations.StartCopiesTheIv : Prop :=
  decode 0x00000011#32 = .ok .start ∧
  ∀ s : State, s.err = none →
    (s.ivv = true → exec .start s = .next { s with cv := s.iv, pv := s.iv, chv := true }) ∧
    (s.ivv = false → exec .start s = .next { s with err := some .iv, errcmd := 0x11 })

/-! ## Padding, function layer -/

/-- R111: the table of pad lengths (NONE only on aligned data, where R111 defines it), their ranges, and that padding reaches
a multiple of `B`. -/
def Obligations.PadLengthTable : Prop :=
  ∀ B L : Nat, 1 ≤ B →
    (L % B = 0 → padLen B .none L = 0) ∧
    (L % B = 0 → padLen B .zeros L = 0) ∧ (L % B ≠ 0 → padLen B .zeros L = B - L % B) ∧ padLen B .zeros L ≤ B - 1 ∧
    (∀ p, p = .ansi ∨ p = .pkcs7 ∨ p = .iso →
      padLen B p L = B - L % B ∧ 1 ≤ padLen B p L ∧ padLen B p L ≤ B) ∧
    ∀ p : Scheme, (p = .none → L % B = 0) → (L + padLen B p L) % B = 0

/-- R114 to R117, R124: the bytes each scheme appends, and the draws it makes, for the inputs the spec gives a result for: `B`
at least 1 (R6), aligned data for NONE (R112), and `B` at most 255 for the count-bearing schemes (R113). -/
def Obligations.PadApplyBytes : Prop :=
  ∀ (env : Env) (k B : Nat) (s : List Byte), 1 ≤ B →
    (s.length % B = 0 → padApply env k B .none s = s) ∧
    padApply env k B .zeros s = s ++ List.replicate (padLen B .zeros s.length) 0x00#8 ∧
    (B ≤ 255 → ∃ c : Byte, c.toNat = B - s.length % B ∧
      padApply env k B .ansi s = s ++ List.replicate (c.toNat - 1) 0x00#8 ++ [c] ∧
      padApply env k B .pkcs7 s = s ++ List.replicate c.toNat c ∧
      padApply env k B .iso s = s ++ (List.range (c.toNat - 1)).map (fun j => env.draw (k + j)) ++ [c] ∧
      padDraws B .iso s.length = c.toNat - 1) ∧
    ∀ p : Scheme, p ≠ .iso → padDraws B p s.length = 0

/-- R119: the removal of Zeros cuts at the smallest `m` from which on every byte is `0x00`, whatever the policy. -/
def Obligations.ZerosRemovalCutsTheZeroTail : Prop :=
  ∀ (B : Nat) (strict : Bool) (s : List Byte), ∃ m ≤ s.length,
    padRemove B .zeros strict s = .ok (s.take m, false) ∧
    (∀ k, m ≤ k → k < s.length → s.getD k 0 = 0x00#8) ∧
    ∀ m', (∀ k, m' ≤ k → k < s.length → s.getD k 0 = 0x00#8) → m ≤ m'

/-- R120 to R123: what makes the padding of each count-bearing scheme valid. -/
def Obligations.ValidPaddingPerScheme : Prop :=
  ∀ (B : Nat) (s : List Byte), s ≠ [] →
    let L := s.length
    let c := (s.getD (L - 1) 0).toNat
    (padValid B .ansi s = true ↔
      (1 ≤ c ∧ c ≤ B ∧ c ≤ L) ∧ ∀ k, L - c ≤ k → k < L - 1 → s.getD k 0 = 0x00#8) ∧
    (padValid B .pkcs7 s = true ↔
      (1 ≤ c ∧ c ≤ B ∧ c ≤ L) ∧ ∀ k, L - c ≤ k → k < L → (s.getD k 0).toNat = c) ∧
    (padValid B .iso s = true ↔ (1 ≤ c ∧ c ≤ B ∧ c ≤ L))

/-- R118, R125: the three arms of a count-bearing removal, and the removal of NONE. -/
def Obligations.RemovalFollowsThePolicy : Prop :=
  ∀ (B : Nat) (strict : Bool) (s : List Byte),
    padRemove B .none strict s = .ok (s, false) ∧
    ∀ p, p = .ansi ∨ p = .pkcs7 ∨ p = .iso → s ≠ [] →
      (padValid B p s = true →
        padRemove B p strict s = .ok (s.take (s.length - (s.getD (s.length - 1) 0).toNat), false)) ∧
      (padValid B p s = false → strict = false → padRemove B p strict s = .ok (s, true)) ∧
      (padValid B p s = false → strict = true → padRemove B p strict s = .error .pad)

/-- R126: the five laws of the padding functions, over the inputs `PadApply` is defined for (R112, R113). -/
def Obligations.PaddingLaws : Prop :=
  ∀ (env : Env) (k B : Nat) (strict : Bool) (s : List Byte), 1 ≤ B →
    (∀ p : Scheme, (p = .none → s.length % B = 0) → (p.countBearing = true → B ≤ 255) →
      (padApply env k B p s).length = s.length + padLen B p s.length ∧ (padApply env k B p s).length % B = 0) ∧
    (∀ p, p = .ansi ∨ p = .pkcs7 ∨ p = .iso → B ≤ 255 →
      padRemove B p strict (padApply env k B p s) = .ok (s, false)) ∧
    (padRemove B .zeros strict (padApply env k B .zeros s) = .ok (stripZeros s, false) ∧
      (stripZeros s = s ↔ s = [] ∨ s.getD (s.length - 1) 0 ≠ 0x00#8)) ∧
    (s.length % B = 0 → padRemove B .none strict (padApply env k B .none s) = .ok (s, false)) ∧
    (s ≠ [] → s.getD (s.length - 1) 0 = 0x01#8 →
      padRemove B .pkcs7 strict s = .ok (s.take (s.length - 1), false)) ∧
    (1 ≤ (s.getD (s.length - 1) 0).toNat → (s.getD (s.length - 1) 0).toNat ≤ B →
      (s.getD (s.length - 1) 0).toNat ≤ s.length →
      padRemove B .iso strict s = .ok (s.take (s.length - (s.getD (s.length - 1) 0).toNat), false))

/-! ## PAD and UNPAD -/

/-- R130: what `PAD` does when none of its checks fails; with no byte to add it changes nothing at all. -/
def Obligations.PadWritesThePadding : Prop :=
  ∀ (s : State) (p : Scheme), s.Inv → s.err = none → Scheme.ofCode s.pad = some p →
    (p.countBearing = true → s.bsize ≤ 255) → s.len.toNat ≤ s.capr →
    (p = .none → s.len.toNat % s.bsize = 0) → s.len.toNat + padLen s.bsize p s.len.toNat ≤ s.capr →
    let L := s.len.toNat
    let n := padLen s.bsize p L
    ∃ m : Memory,
      exec .pad s = .next { s with
        buf := m, len := BitVec.ofNat 21 (L + n), draws := s.draws + (if p = .iso then n - 1 else 0) } ∧
      (BitVec.ofNat 21 (L + n)).toNat = L + n ∧
      (∀ a, a < L ∨ L + n ≤ a → m.read a = s.buf.read a) ∧
      (p = .zeros → ∀ k < n, m.read (L + k) = 0x00) ∧
      (p = .ansi → (∀ k < n - 1, m.read (L + k) = 0x00) ∧ (m.read (L + n - 1)).toNat = n) ∧
      (p = .pkcs7 → ∀ k < n, (m.read (L + k)).toNat = n) ∧
      (p = .iso → (∀ k < n - 1, m.read (L + k) = Config.draw (s.draws + k)) ∧ (m.read (L + n - 1)).toNat = n) ∧
      (n = 0 → exec .pad s = .next s)

/-- R131, R132, R241, R250: what `UNPAD` does when none of its checks fails, per scheme and policy. -/
def Obligations.UnpadRemovesThePadding : Prop :=
  ∀ (s : State) (p : Scheme), s.err = none → Scheme.ofCode s.pad = some p →
    (p.countBearing = true → s.bsize ≠ 256 ∧ s.len ≠ 0) → s.len.toNat ≤ s.capr → s.len.toNat % s.bsize = 0 →
    let d := s.buf.readN 0 s.len.toNat
    let c := (s.buf.read (s.len.toNat - 1)).toNat
    (p = .none → exec .unpad s = .next { s with padbad := false }) ∧
    (p = .zeros → exec .unpad s = .next { s with len := BitVec.ofNat 21 (stripZeros d).length, padbad := false }) ∧
    (p.countBearing = true → padValid s.bsize p d = true →
      exec .unpad s = .next { s with len := BitVec.ofNat 21 (s.len.toNat - c), padbad := false }) ∧
    (p.countBearing = true → padValid s.bsize p d = false → s.strict = false →
      exec .unpad s = .next { s with padbad := true }) ∧
    (p.countBearing = true → padValid s.bsize p d = false → s.strict = true →
      exec .unpad s = .next { s with err := some .pad, errcmd := 0x21 })

/-! ## Chaining, function layer -/

/-- R152 to R158: the block step of every mode in both directions. -/
def Obligations.BlockStepPerMode : Prop :=
  ∀ (env : Env) (cv pv x δ : Block),
    (encBlock env .ecb ⟨cv, pv⟩ x δ = (env.E x, ⟨cv, pv⟩) ∧
      decBlock env .ecb ⟨cv, pv⟩ x δ = (env.D x, ⟨cv, pv⟩)) ∧
    (encBlock env .cbc ⟨cv, pv⟩ x δ = (env.E (xorBlock x cv), ⟨env.E (xorBlock x cv), pv⟩) ∧
      decBlock env .cbc ⟨cv, pv⟩ x δ = (xorBlock (env.D x) cv, ⟨x, pv⟩)) ∧
    (encBlock env .pcbc ⟨cv, pv⟩ x δ =
        (env.E (xorBlock (xorBlock x pv) cv), ⟨env.E (xorBlock (xorBlock x pv) cv), x⟩) ∧
      decBlock env .pcbc ⟨cv, pv⟩ x δ =
        (xorBlock (xorBlock (env.D x) pv) cv, ⟨x, xorBlock (xorBlock (env.D x) pv) cv⟩)) ∧
    (encBlock env .cfb ⟨cv, pv⟩ x δ = (xorBlock x (env.E cv), ⟨xorBlock x (env.E cv), pv⟩) ∧
      decBlock env .cfb ⟨cv, pv⟩ x δ = (xorBlock x (env.E cv), ⟨x, pv⟩)) ∧
    (encBlock env .ofb ⟨cv, pv⟩ x δ = (xorBlock x (env.E cv), ⟨env.E cv, pv⟩) ∧
      decBlock env .ofb ⟨cv, pv⟩ x δ = (xorBlock x (env.E cv), ⟨env.E cv, pv⟩)) ∧
    (encBlock env .ctr ⟨cv, pv⟩ x δ = (xorBlock x (env.E cv), ⟨incBlock cv, pv⟩) ∧
      decBlock env .ctr ⟨cv, pv⟩ x δ = (xorBlock x (env.E cv), ⟨incBlock cv, pv⟩)) ∧
    (encBlock env .rd ⟨cv, pv⟩ x δ = (env.E (xorBlock x δ), ⟨cv, pv⟩) ∧
      decBlock env .rd ⟨cv, pv⟩ x δ = (xorBlock (env.D x) δ, ⟨cv, pv⟩))

/-- R161: the data path table, its cipher function, multiplexers and XOR stages, gives the block steps. -/
def Obligations.DataPathTableAgrees : Prop :=
  ∀ (env : Env) (m : Mode) (c : Chain) (x δ : Block),
    dataPath env m .enc c x δ = encBlock env m c x δ ∧ dataPath env m .dec c x δ = decBlock env m c x δ

/-- R12, R159: `be_B` is the inverse of `int_be`, `Inc` adds 1 modulo `256^B`, and it is the byte-wise carry. -/
def Obligations.CounterArithmetic : Prop :=
  (∀ B n : Nat, n < 256 ^ B → intBe (beBytes B n) = n) ∧
  ∀ v : Block,
    beBytes v.length (intBe v) = v ∧ intBe v < 256 ^ v.length ∧
    (incBlock v).length = v.length ∧ intBe (incBlock v) = (intBe v + 1) % 256 ^ v.length ∧ incBlock v = incBytes v

/-- R157, R163: in CTR block `i` of a run uses the counter `be_B((int_be(CV) + i) mod 256^B)`, in both directions, and the
counter after `n` blocks is the one of block `n`. -/
def Obligations.CtrCounterOfEachBlock : Prop :=
  ∀ (env : Env) (c : Chain) (ins : List (Block × Block)),
    let counter := fun i : Nat => beBytes c.cv.length ((intBe c.cv + i) % 256 ^ c.cv.length)
    chainEnc env .ctr c ins =
      (ins.zipIdx.map (fun p => xorBlock p.1.1 (env.E (counter p.2))), { cv := counter ins.length, pv := c.pv }) ∧
    chainDec env .ctr c ins = chainEnc env .ctr c ins

/-- R160, R172: a run over two sequences is the run over the first, continued from its state over the second. -/
def Obligations.ChainingContinuesAcrossASplit : Prop :=
  ∀ (env : Env) (m : Mode) (c : Chain) (ins ins' : List (Block × Block)),
    chainEnc env m c (ins ++ ins') =
      ((chainEnc env m c ins).1 ++ (chainEnc env m (chainEnc env m c ins).2 ins').1,
        (chainEnc env m (chainEnc env m c ins).2 ins').2) ∧
    chainDec env m c (ins ++ ins') =
      ((chainDec env m c ins).1 ++ (chainDec env m (chainDec env m c ins).2 ins').1,
        (chainDec env m (chainDec env m c ins).2 ins').2)

/-- R164: a run gives as many blocks as it takes, each of `B` bytes, and `ENC` and `DEC` never write `LEN`. -/
def Obligations.ChainingKeepsTheLength : Prop :=
  (∀ (env : Env) (m : Mode) (B : Nat) (c : Chain) (ins : List (Block × Block)),
    c.cv.length = B → c.pv.length = B → (∀ p ∈ ins, p.1.length = B ∧ p.2.length = B) →
    ∀ r, r = chainEnc env m c ins ∨ r = chainDec env m c ins →
      r.1.length = ins.length ∧ (∀ y ∈ r.1, y.length = B) ∧ r.2.cv.length = B ∧ r.2.pv.length = B) ∧
  ∀ (i : Instr) (s t : State), i = .enc ∨ i = .dec → exec i s = .next t → t.len = s.len

/-- R8, R158, T1 of 95_test_vectors: with CIPHER_INVERSE, decryption of a run's output from the same state and with the same
deltas gives its input back and ends in the same state, in all seven modes. -/
def Obligations.DecryptionInvertsEncryption : Prop :=
  ∀ (env : Env) (m : Mode) (B : Nat) (c : Chain) (ins : List (Block × Block)),
    env.CipherInverse B → c.cv.length = B → c.pv.length = B → (∀ p ∈ ins, p.1.length = B ∧ p.2.length = B) →
    chainDec env m c ((chainEnc env m c ins).1.zip (ins.map Prod.snd)) = (ins.map Prod.fst, (chainEnc env m c ins).2)

/-- R152 to R157, T2 of 95_test_vectors: outside RandomDelta the deltas have no influence, and in ECB and RandomDelta the
chain state has none and is not changed. -/
def Obligations.DeltasAndChainOnlyWhereUsed : Prop :=
  ∀ (env : Env) (m : Mode) (c c' : Chain) (ins ins' : List (Block × Block)),
    (m ≠ .rd → ins.map Prod.fst = ins'.map Prod.fst →
      chainEnc env m c ins = chainEnc env m c ins' ∧ chainDec env m c ins = chainDec env m c ins') ∧
    (m = .ecb ∨ m = .rd →
      (chainEnc env m c ins).1 = (chainEnc env m c' ins).1 ∧ (chainEnc env m c ins).2 = c ∧
      (chainDec env m c ins).1 = (chainDec env m c' ins).1 ∧ (chainDec env m c ins).2 = c)

/-! ## ENC and DEC -/

/-- R167: `ENC` in the six standard modes when none of its checks fails. -/
def Obligations.EncTransformsTheData : Prop :=
  ∀ (s : State) (m : Mode), s.Inv → s.err = none → Mode.ofCode s.mode = some m → m ≠ .rd →
    s.len.toNat ≤ s.capr → s.len.toNat % s.bsize = 0 → (m.usesIv = true → s.chv = true) →
    let n := s.len.toNat / s.bsize
    let r := chainEnc Config.env m ⟨s.cv, s.pv⟩ ((s.buf.blocks 0 s.bsize n).zip (s.dlt.blocks 0 s.bsize n))
    ∃ b : Memory, exec .enc s = .next { s with buf := b, cv := r.2.cv, pv := r.2.pv } ∧
      b.blocks 0 s.bsize n = r.1 ∧ ∀ a, s.len.toNat ≤ a → b.read a = s.buf.read a

/-- R158, R167, R168: `ENC` in RandomDelta mode draws the deltas first, delta block 0 and byte 0 first, and needs no chain. -/
def Obligations.EncRandomDeltaDrawsItsDeltas : Prop :=
  ∀ s : State, s.Inv → s.err = none → Mode.ofCode s.mode = some .rd →
    s.len.toNat ≤ s.capr → s.len.toNat % s.bsize = 0 →
    let n := s.len.toNat / s.bsize
    ∃ b d : Memory,
      exec .enc s = .next { s with
        buf := b, dlt := d, dcnt := BitVec.ofNat 21 n, draws := s.draws + s.len.toNat } ∧
      (BitVec.ofNat 21 n).toNat = n ∧
      (∀ k < s.len.toNat, d.read k = Config.draw (s.draws + k)) ∧
      (∀ a, s.len.toNat ≤ a → d.read a = s.dlt.read a) ∧
      (∀ i < n, b.readN (i * s.bsize) s.bsize =
        Config.env.E (xorBlock (s.buf.readN (i * s.bsize) s.bsize) (d.readN (i * s.bsize) s.bsize))) ∧
      ∀ a, s.len.toNat ≤ a → b.read a = s.buf.read a

/-- R169: `DEC` in every mode when none of its checks fails. -/
def Obligations.DecTransformsTheData : Prop :=
  ∀ (s : State) (m : Mode), s.Inv → s.err = none → Mode.ofCode s.mode = some m →
    s.len.toNat ≤ s.capr → s.len.toNat % s.bsize = 0 → (m.usesIv = true → s.chv = true) →
    (m = .rd → s.dcnt.toNat = s.len.toNat / s.bsize) →
    let n := s.len.toNat / s.bsize
    let r := chainDec Config.env m ⟨s.cv, s.pv⟩ ((s.buf.blocks 0 s.bsize n).zip (s.dlt.blocks 0 s.bsize n))
    ∃ b : Memory, exec .dec s = .next { s with buf := b, cv := r.2.cv, pv := r.2.pv } ∧
      b.blocks 0 s.bsize n = r.1 ∧ ∀ a, s.len.toNat ≤ a → b.read a = s.buf.read a

/-- R73, R15: the transform in place, block by block, has the effect of the function layer on the whole buffer. -/
def Obligations.InPlaceLoopIsTheFunctionLayer : Prop :=
  ∀ (env : Env) (m : Mode) (s : State), s.Inv →
    s.inPlaceLoop (encBlock env m) 0 (s.len.toNat / s.bsize) = s.transform (chainEnc env m) ∧
    s.inPlaceLoop (decBlock env m) 0 (s.len.toNat / s.bsize) = s.transform (chainDec env m)

/-! ## Composites -/

/-- R200: a composite that raises no error has the effect of its two halves one after the other. Where `ENCF` draws this
compares two runs that see the same stream of draws, which is the model's choice (log 6). -/
def Obligations.CompositesAreTheirHalves : Prop :=
  ∀ s u : State, s.Inv → s.err = none → u.err = none →
    (exec .encf s = .next u → ∃ t, exec .pad s = .next t ∧ t.err = none ∧ exec .enc t = .next u) ∧
    (exec .decf s = .next u → ∃ t, exec .dec s = .next t ∧ t.err = none ∧ exec .unpad t = .next u)

/-- R201: `ENCF` when none of its checks fails: the padded data, chained; ISO draws come before delta draws. -/
def Obligations.EncfPadsThenEncrypts : Prop :=
  ∀ (s : State) (m : Mode) (p : Scheme), s.Inv → s.err = none →
    Mode.ofCode s.mode = some m → Scheme.ofCode s.pad = some p → (p.countBearing = true → s.bsize ≤ 255) →
    (p = .none → s.len.toNat % s.bsize = 0) → s.len.toNat + padLen s.bsize p s.len.toNat ≤ s.capr →
    (m.usesIv = true → s.chv = true) →
    let L := s.len.toNat
    let L' := L + padLen s.bsize p L
    let nb := L' / s.bsize
    let k := s.draws + padDraws s.bsize p L
    let δs := if m = .rd then chunks s.bsize nb (drawn Config.env k L') else s.dlt.blocks 0 s.bsize nb
    let r := chainEnc Config.env m ⟨s.cv, s.pv⟩
      ((chunks s.bsize nb (padApply Config.env s.draws s.bsize p (s.buf.readN 0 L))).zip δs)
    ∃ b d : Memory,
      exec .encf s = .next { s with
        buf := b, dlt := d, len := BitVec.ofNat 21 L', dcnt := if m = .rd then BitVec.ofNat 21 nb else s.dcnt,
        cv := r.2.cv, pv := r.2.pv, draws := k + (if m = .rd then L' else 0) } ∧
      (BitVec.ofNat 21 L').toNat = L' ∧
      b.blocks 0 s.bsize nb = r.1 ∧ (∀ a, L' ≤ a → b.read a = s.buf.read a) ∧
      (m ≠ .rd → d = s.dlt) ∧
      (m = .rd → d.readN 0 L' = drawn Config.env k L' ∧ ∀ a, L' ≤ a → d.read a = s.dlt.read a)

/-- R202, R208: `DECF` when none of its preconditions fails, per scheme and policy; with `E_PAD` the buffer is decrypted, the
chain has advanced, and `LEN` and `PADBAD` are unchanged. -/
def Obligations.DecfDecryptsThenRemoves : Prop :=
  ∀ (s : State) (m : Mode) (p : Scheme), s.Inv → s.err = none →
    Mode.ofCode s.mode = some m → Scheme.ofCode s.pad = some p →
    (p.countBearing = true → s.bsize ≤ 255 ∧ s.len ≠ 0) → s.len.toNat ≤ s.capr → s.len.toNat % s.bsize = 0 →
    (m.usesIv = true → s.chv = true) → (m = .rd → s.dcnt.toNat = s.len.toNat / s.bsize) →
    let n := s.len.toNat / s.bsize
    let r := chainDec Config.env m ⟨s.cv, s.pv⟩ ((s.buf.blocks 0 s.bsize n).zip (s.dlt.blocks 0 s.bsize n))
    let d := r.1.flatten
    let c := (d.getD (s.len.toNat - 1) 0).toNat
    ∃ b : Memory, b.readN 0 s.len.toNat = d ∧ (∀ a, s.len.toNat ≤ a → b.read a = s.buf.read a) ∧
      let u : State := { s with buf := b, cv := r.2.cv, pv := r.2.pv }
      (p = .none → exec .decf s = .next { u with padbad := false }) ∧
      (p = .zeros → exec .decf s = .next { u with len := BitVec.ofNat 21 (stripZeros d).length, padbad := false }) ∧
      (p.countBearing = true → padValid s.bsize p d = true →
        exec .decf s = .next { u with len := BitVec.ofNat 21 (s.len.toNat - c), padbad := false }) ∧
      (p.countBearing = true → padValid s.bsize p d = false → s.strict = false →
        exec .decf s = .next { u with padbad := true }) ∧
      (p.countBearing = true → padValid s.bsize p d = false → s.strict = true →
        exec .decf s = .next { u with err := some .pad, errcmd := 0x33 })

/-- R203: how many blocks `ENCF` leaves. -/
def Obligations.BlockCountsOfEncf : Prop :=
  ∀ s t : State, s.Inv → s.err = none → exec .encf s = .next t → t.err = none →
    (s.pad = 2 ∨ s.pad = 3 ∨ s.pad = 4 → t.len.toNat / s.bsize = s.len.toNat / s.bsize + 1) ∧
    (s.pad = 1 → t.len.toNat / s.bsize = (s.len.toNat + s.bsize - 1) / s.bsize) ∧
    (s.pad = 0 → t.len.toNat / s.bsize = s.len.toNat / s.bsize) ∧
    t.len.toNat % s.bsize = 0

/-- R205: an empty final chunk under ZEROS or NONE. -/
def Obligations.EmptyFinalChunk : Prop :=
  ∀ (s : State) (m : Mode), s.Inv → s.err = none → s.pad = 0 ∨ s.pad = 1 → Mode.ofCode s.mode = some m →
    (m.usesIv = true → s.chv = true) → s.len = 0 →
    exec .encf s = .next (if m = .rd then { s with dcnt := 0 } else s) ∧
    ((m = .rd → s.dcnt = 0) → exec .decf s = .next { s with padbad := false })

/-- R209: right after `START`, encryption, `START` and decryption give the data back, over every cipher with CIPHER_INVERSE
and every randomness source; `ENCF`, `START` and `DECF` are those commands with the machine's own cipher. -/
def Obligations.EncryptThenDecryptGivesTheDataBack : Prop :=
  (∀ s : State, exec .encf s = .next (s.encfCommand Config.env) ∧ exec .start s = .next s.startCommand ∧
    exec .decf s = .next (s.decfCommand Config.env)) ∧
  ∀ (env : Env) (s : State) (m : Mode) (p : Scheme), env.CipherInverse s.bsize → s.Inv → s.err = none →
    Mode.ofCode s.mode = some m → Scheme.ofCode s.pad = some p → (p.countBearing = true → s.bsize ≤ 255) →
    (p = .none → s.len.toNat % s.bsize = 0) → s.len.toNat + padLen s.bsize p s.len.toNat ≤ s.capr →
    s.ivv = true → s.chv = true → s.cv = s.iv → s.pv = s.iv →
    let u := ((s.encfCommand env).startCommand).decfCommand env
    u.data = (if p = .zeros then stripZeros s.data else s.data) ∧ u.padbad = false ∧ u.err = none

/-- R172: a message given as a chunk of whole blocks to `ENC` and the rest to `ENCF` yields the bytes, and ends in the chain
state, of one `ENCF` over the whole. In RandomDelta or under ISO 10126 this compares two runs that both draw, and rests on
the model's choice that both see the same stream at equal counts (log 6). With RandomDelta and ISO 10126 together the draws
come in another order (R201), so that case is left out. -/
def Obligations.ChunkedMessageIsTheWholeMessage : Prop :=
  ∀ (s : State) (m : Mode) (p : Scheme) (d₁ d₂ : List Byte), s.Inv → s.err = none →
    Mode.ofCode s.mode = some m → Scheme.ofCode s.pad = some p → (m = .rd → p ≠ .iso) →
    (p.countBearing = true → s.bsize ≤ 255) → d₁.length % s.bsize = 0 → (p = .none → d₂.length % s.bsize = 0) →
    d₁.length + d₂.length + padLen s.bsize p d₂.length ≤ s.capr → (m.usesIv = true → s.chv = true) →
    ∃ t₁ t₂ w : State,
      exec .enc (s.loaded d₁) = .next t₁ ∧ exec .encf (t₁.loaded d₂) = .next t₂ ∧
      exec .encf (s.loaded (d₁ ++ d₂)) = .next w ∧
      t₁.err = none ∧ t₂.err = none ∧ w.err = none ∧
      w.data = t₁.data ++ t₂.data ∧ w.cv = t₂.cv ∧ w.pv = t₂.pv ∧ w.draws = t₂.draws

/-- R172, R281, for `DEC` and `DECF`: a ciphertext given as a chunk of whole blocks to `DEC` and the rest to `DECF`, each with
its deltas, yields the bytes, the verdict on the padding and the chain state of one `DECF` over the whole. A count-bearing
scheme needs a block in the last chunk (`E_EMPTY`); ZEROS strips only the chunk that `DECF` sees, so the whole is what
stripping the two chunks together gives (R281). -/
def Obligations.ChunkedDecryptionIsTheWholeDecryption : Prop :=
  ∀ (s : State) (m : Mode) (p : Scheme) (c₁ c₂ e₁ e₂ : List Byte), s.Inv → s.err = none →
    Mode.ofCode s.mode = some m → Scheme.ofCode s.pad = some p →
    (p.countBearing = true → s.bsize ≤ 255 ∧ c₂ ≠ []) → c₁.length % s.bsize = 0 → c₂.length % s.bsize = 0 →
    c₁.length + c₂.length ≤ s.capr → e₁.length = c₁.length → e₂.length = c₂.length → (m.usesIv = true → s.chv = true) →
    ∃ t₁ t₂ w : State,
      exec .dec ((s.loaded c₁).loadedDeltas e₁) = .next t₁ ∧ exec .decf ((t₁.loaded c₂).loadedDeltas e₂) = .next t₂ ∧
      exec .decf ((s.loaded (c₁ ++ c₂)).loadedDeltas (e₁ ++ e₂)) = .next w ∧
      t₁.err = none ∧ w.err = t₂.err ∧ w.padbad = t₂.padbad ∧
      w.data = (if p = .zeros then stripZeros (t₁.data ++ t₂.data) else t₁.data ++ t₂.data) ∧
      w.cv = t₂.cv ∧ w.pv = t₂.pv

/-! ## Whole-machine rules -/

/-- R171: no sequence of these commands writes the IV; the `IV` window reads as before it. -/
def Obligations.TransformsNeverWriteTheIv : Prop :=
  ∀ (is : List Instr) (s t : State),
    (∀ i ∈ is, i ∈ [Instr.start, .enc, .dec, .encf, .decf, .pad, .unpad]) → CommandsFrom is s t →
    t.iv = s.iv ∧ ∀ k, t.winValue .iv k = s.winValue .iv k

/-- R21, R39 (I-4, I-5), R69, R172: what each step can write: `BSIZE` and `CAPR` nothing, the IV only `LDIV`, the chain state
only `START` and the transforms. -/
def Obligations.OnlyTheseWriteIvAndChain : Prop :=
  ∀ s t : State, step s = .next t →
    (t.bsize = s.bsize ∧ t.capr = s.capr) ∧
    (t.iv ≠ s.iv → ∃ rest, s.pending = .regWrite 0x08 (encode .ldiv) :: rest) ∧
    (t.cv ≠ s.cv ∨ t.pv ≠ s.pv →
      ∃ i ∈ [Instr.start, .enc, .dec, .encf, .decf], ∃ rest, s.pending = .regWrite 0x08 (encode i) :: rest)

/-- R23, R24: the transform commands write `PV` only in PCBC, and neither `CV` nor `PV` in ECB and RandomDelta. -/
def Obligations.ChainRegistersPerMode : Prop :=
  ∀ (i : Instr) (s t : State), i ∈ [Instr.enc, .dec, .encf, .decf] → exec i s = .next t →
    (s.mode ≠ 2 → t.pv = s.pv) ∧ (s.mode = 0 ∨ s.mode = 6 → t.cv = s.cv ∧ t.pv = s.pv)

/-- R37, R124, R168, T2 of 95_test_vectors: which commands draw, and which touch the deltas. -/
def Obligations.DrawsOnlyForIsoAndDeltas : Prop :=
  ∀ (i : Instr) (s t : State), exec i s = .next t →
    (t.draws ≠ s.draws →
      (i ∈ [Instr.pad, .encf] ∧ s.pad = 4) ∨ (i ∈ [Instr.enc, .encf] ∧ s.mode = 6)) ∧
    (t.dlt ≠ s.dlt → i ∈ [Instr.enc, .encf] ∧ s.mode = 6) ∧
    (t.dcnt ≠ s.dcnt → i = .srst ∨ (i ∈ [Instr.enc, .encf] ∧ s.mode = 6))

/-- R39 (I-3): no command leaves `LEN > CAP` unless the host wrote it so. -/
def Obligations.CommandsKeepLenInCapacity : Prop :=
  ∀ (i : Instr) (s t : State), s.Inv → s.len.toNat ≤ s.capr → exec i s = .next t → t.len.toNat ≤ t.capr

/-- R39 (I-1, I-2, I-5), R20, R72: every step keeps the invariant: a legal instance, block registers of `B` bytes, memories in
canonical form inside `CAP` bytes, a valid chain only with a valid IV, and no recorded opcode without an error. -/
def Obligations.EveryStepKeepsTheInvariant : Prop :=
  ∀ s t : State, s.Inv → step s = .next t → t.Inv

/-- R40: the state after reset meets the invariant, for every legal instance and every initial content that fits it.
`State.reset` is one of them; its instance and its content are the model's choice (logs 3, 4, 5). -/
def Obligations.ResetMeetsTheInvariant : Prop :=
  (∀ (p : Params) (c : Contents), p.Legal → c.Fits p → (State.resetOf p c).Inv) ∧ State.reset.Inv

/-- R40: the registers after a hardware reset and after `SRST`, and what happens to the five memories. -/
def Obligations.ResetValues : Prop :=
  (∀ (p : Params) (c : Contents),
    let s := State.resetOf p c
    s.ctrlWord = 0 ∧ s.lenWord = 0 ∧ s.dcntWord = 0 ∧ s.statusWord = 0 ∧
      s.iv = c.iv ∧ s.cv = c.cv ∧ s.pv = c.pv ∧ s.buf = c.buf ∧ s.dlt = c.dlt ∧
      s.bsize = p.blockSize ∧ s.capr = p.capacity) ∧
  ∀ s : State, ∃ t, exec .srst s = .next t ∧
    t.ctrlWord = 0 ∧ t.lenWord = 0 ∧ t.dcntWord = 0 ∧ t.statusWord = 0 ∧
      t.iv = s.iv ∧ t.cv = s.cv ∧ t.pv = s.pv ∧ t.buf = s.buf ∧ t.dlt = s.dlt ∧
      t.bsize = s.bsize ∧ t.capr = s.capr

/-! ## Host actions -/

/-- R28, R29: a write to `CTRL`, and reading it back. -/
def Obligations.CtrlWriteAndReadBack : Prop :=
  ∀ (s : State) (w : Word),
    perform (.regWrite 0x00 w) s = .next { s with
      mode := w.extractLsb' 0 3, pad := w.extractLsb' 4 3, strict := w.getLsbD 8,
      chv := s.chv && decide (w.extractLsb' 0 3 = s.mode) } ∧
    (∀ t, perform (.regWrite 0x00 w) s = .next t → t.ctrlWord = w &&& 0x00000177#32) ∧
    perform (.regRead 0x00) s = .next { s with replies := .word s.ctrlWord :: s.replies } ∧
    s.ctrlWord.extractLsb' 0 3 = s.mode ∧ s.ctrlWord.extractLsb' 4 3 = s.pad ∧ s.ctrlWord.getLsbD 8 = s.strict ∧
    s.ctrlWord &&& 0xFFFFFE88#32 = 0

/-- R32, R231: the fields of `STATUS` and the error codes; reading it has no side effect, writes are ignored. -/
def Obligations.StatusWordLayout : Prop :=
  ∀ s : State,
    let w := s.statusWord
    (s.err = none → w.extractLsb' 0 4 = 0) ∧
    (∀ e n, (e, n) ∈ [(Err.cmd, 1#4), (.cfg, 2), (.len, 3), (.align, 4), (.ivlen, 5), (.iv, 6), (.chain, 7), (.ovf, 8),
        (.empty, 9), (.pad, 10), (.delta, 11)] → s.err = some e → w.extractLsb' 0 4 = n) ∧
    w.getLsbD 4 = s.ivv ∧ w.getLsbD 5 = s.chv ∧ w.getLsbD 6 = s.padbad ∧ w.getLsbD 7 = false ∧
    w.extractLsb' 8 8 = s.errcmd ∧ w.extractLsb' 16 16 = 0 ∧
    perform (.regRead 0x0C) s = .next { s with replies := .word w :: s.replies } ∧
    ∀ v : Word, perform (.regWrite 0x0C v) s = .next s

/-- R30, R33: `LEN` and `DCNT` store bits 20:0 unchecked and read them back with the other bits 0. -/
def Obligations.LenAndDcntStoreTheirBits : Prop :=
  ∀ (s : State) (w : Word),
    perform (.regWrite 0x04 w) s = .next { s with len := w.extractLsb' 0 21 } ∧
    perform (.regWrite 0x10 w) s = .next { s with dcnt := w.extractLsb' 0 21 } ∧
    (∃ v : Word, perform (.regRead 0x04) s = .next { s with replies := .word v :: s.replies } ∧
      v.toNat = s.len.toNat) ∧
    ∃ v : Word, perform (.regRead 0x10) s = .next { s with replies := .word v :: s.replies } ∧ v.toNat = s.dcnt.toNat

/-- R31, R34, R35: `BSIZE` and `CAPR` read as `B` and `CAP` and ignore writes; `CMD` reads as 0. -/
def Obligations.ConstantRegistersAndCmdRead : Prop :=
  ∀ s : State, s.LegalInstance →
    (∃ v : Word, perform (.regRead 0x14) s = .next { s with replies := .word v :: s.replies } ∧ v.toNat = s.bsize) ∧
    (∃ v : Word, perform (.regRead 0x18) s = .next { s with replies := .word v :: s.replies } ∧ v.toNat = s.capr) ∧
    perform (.regRead 0x08) s = .next { s with replies := .word 0 :: s.replies } ∧
    ∀ w : Word, perform (.regWrite 0x14 w) s = .next s ∧ perform (.regWrite 0x18 w) s = .next s

/-- R64: reserved register offsets and indices outside a window's valid range read 0 and ignore writes. -/
def Obligations.ReservedLocationsReadZero : Prop :=
  (∀ (s : State) (off : Nat) (w : Word), off % 4 = 0 → 0x1C ≤ off → off ≤ 0xFC →
    perform (.regRead off) s = .next { s with replies := .word 0 :: s.replies } ∧
    perform (.regWrite off w) s = .next s) ∧
  ∀ (s : State) (sp : Space) (k : Nat) (v : Byte),
    (sp = .buf ∨ sp = .dlt → s.capr ≤ k) → (sp = .iv ∨ sp = .cv ∨ sp = .pv → s.bsize ≤ k) →
    perform (.winRead sp k) s = .next { s with replies := .byte 0 :: s.replies } ∧
    perform (.winWrite sp k v) s = .next s

/-- R67, R68, R69: the windows: `BUF` and `DLT` give and take the byte and touch nothing else; `IV`, `CV`, `PV` give it. -/
def Obligations.WindowsReadAndWriteBytes : Prop :=
  ∀ (s : State) (k : Nat) (v : Byte), s.Inv →
    (k < s.capr →
      perform (.winRead .buf k) s = .next { s with replies := .byte (s.buf.read k) :: s.replies } ∧
      perform (.winRead .dlt k) s = .next { s with replies := .byte (s.dlt.read k) :: s.replies } ∧
      (∃ m : Memory, perform (.winWrite .buf k v) s = .next { s with buf := m } ∧
        m.read k = v ∧ ∀ a, a ≠ k → m.read a = s.buf.read a) ∧
      ∃ m : Memory, perform (.winWrite .dlt k v) s = .next { s with dlt := m } ∧
        m.read k = v ∧ ∀ a, a ≠ k → m.read a = s.dlt.read a) ∧
    (k < s.bsize →
      perform (.winRead .iv k) s = .next { s with replies := .byte (s.iv.getD k 0) :: s.replies } ∧
      perform (.winRead .cv k) s = .next { s with replies := .byte (s.cv.getD k 0) :: s.replies } ∧
      perform (.winRead .pv k) s = .next { s with replies := .byte (s.pv.getD k 0) :: s.replies }) ∧
    ∀ sp, sp = .iv ∨ sp = .cv ∨ sp = .pv → perform (.winWrite sp k v) s = .next s

/-- R70: no read changes the machine, and the same read again returns the same value. -/
def Obligations.ReadsHaveNoSideEffect : Prop :=
  ∀ (a : HostAction) (s t : State), (∃ off, a = .regRead off) ∨ (∃ sp k, a = .winRead sp k) → perform a s = .next t →
    ∃ r : Reply, t = { s with replies := r :: s.replies } ∧
      perform a t = .next { s with replies := r :: r :: s.replies }

/-- R62, R63, R64, R66: the aperture: words in the register file and bytes in the windows are host actions; a byte of the
reserved range 0x400 to 0x0FFFFF reads 0 and ignores writes; anything else is refused without changing any state. That the
bytes of the reserved range are accesses at all, that its words are none, and that an address at or above 0x300000 is none,
are the model's readings (log 8). -/
def Obligations.ApertureMap : Prop :=
  (∀ off w, off % 4 = 0 → off < 0x100 →
    Access.toAction (.read .word off) = some (.regRead off) ∧
    Access.toAction (.write .word off w) = some (.regWrite off w)) ∧
  (∀ sp k w, (sp = .iv ∨ sp = .cv ∨ sp = .pv → k < 0x100) → (sp = .buf ∨ sp = .dlt → k < 0x100000) →
    Access.toAction (.read .byte (sp.base + k)) = some (.winRead sp k) ∧
    Access.toAction (.write .byte (sp.base + k) w) = some (.winWrite sp k (w.extractLsb' 0 8))) ∧
  (∀ (s : State) (a : Nat) (w : Word), s.LegalInstance → 0x400 ≤ a → a < 0x100000 →
    performAccess (.read .byte a) s = .next { s with replies := .byte 0 :: s.replies } ∧
    performAccess (.write .byte a w) s = .next s) ∧
  (∀ (s : State) (a : Nat) (w : Word) (x : Access),
    (x = .read .half a ∨ x = .write .half a w) ∨
    ((x = .read .byte a ∨ x = .write .byte a w) ∧ (a < 0x100 ∨ 0x300000 ≤ a)) ∨
    ((x = .read .word a ∨ x = .write .word a w) ∧ (a % 4 ≠ 0 ∨ 0x100 ≤ a)) →
      performAccess x s = .refused (.notAnAccess a)) ∧
  ∀ (s : State) (off : Nat) (w : Word), off % 4 ≠ 0 ∨ 0x100 ≤ off →
    perform (.regRead off) s = .refused (.notHostAction off) ∧
    perform (.regWrite off w) s = .refused (.notHostAction off)
end

