-- ==== Sys2Proof/Laws/State.lean ====
section
/-! SUPPORT. What each named update of State does to each field: one lemma per field per update. -/

namespace Sys2Proof.Machine

variable (s : State)

@[simp] theorem State.setLen_bsize (n : Nat) : (s.setLen n).bsize = s.bsize := rfl
@[simp] theorem State.setLen_capr (n : Nat) : (s.setLen n).capr = s.capr := rfl
@[simp] theorem State.setLen_mode (n : Nat) : (s.setLen n).mode = s.mode := rfl
@[simp] theorem State.setLen_pad (n : Nat) : (s.setLen n).pad = s.pad := rfl
@[simp] theorem State.setLen_strict (n : Nat) : (s.setLen n).strict = s.strict := rfl
@[simp] theorem State.setLen_len (n : Nat) : (s.setLen n).len = BitVec.ofNat 21 n := rfl
@[simp] theorem State.setLen_dcnt (n : Nat) : (s.setLen n).dcnt = s.dcnt := rfl
@[simp] theorem State.setLen_err (n : Nat) : (s.setLen n).err = s.err := rfl
@[simp] theorem State.setLen_errcmd (n : Nat) : (s.setLen n).errcmd = s.errcmd := rfl
@[simp] theorem State.setLen_ivv (n : Nat) : (s.setLen n).ivv = s.ivv := rfl
@[simp] theorem State.setLen_chv (n : Nat) : (s.setLen n).chv = s.chv := rfl
@[simp] theorem State.setLen_padbad (n : Nat) : (s.setLen n).padbad = s.padbad := rfl
@[simp] theorem State.setLen_iv (n : Nat) : (s.setLen n).iv = s.iv := rfl
@[simp] theorem State.setLen_cv (n : Nat) : (s.setLen n).cv = s.cv := rfl
@[simp] theorem State.setLen_pv (n : Nat) : (s.setLen n).pv = s.pv := rfl
@[simp] theorem State.setLen_buf (n : Nat) : (s.setLen n).buf = s.buf := rfl
@[simp] theorem State.setLen_dlt (n : Nat) : (s.setLen n).dlt = s.dlt := rfl
@[simp] theorem State.setLen_draws (n : Nat) : (s.setLen n).draws = s.draws := rfl
@[simp] theorem State.setLen_pending (n : Nat) : (s.setLen n).pending = s.pending := rfl
@[simp] theorem State.setLen_replies (n : Nat) : (s.setLen n).replies = s.replies := rfl

@[simp] theorem State.setDcnt_bsize (n : Nat) : (s.setDcnt n).bsize = s.bsize := rfl
@[simp] theorem State.setDcnt_capr (n : Nat) : (s.setDcnt n).capr = s.capr := rfl
@[simp] theorem State.setDcnt_mode (n : Nat) : (s.setDcnt n).mode = s.mode := rfl
@[simp] theorem State.setDcnt_pad (n : Nat) : (s.setDcnt n).pad = s.pad := rfl
@[simp] theorem State.setDcnt_strict (n : Nat) : (s.setDcnt n).strict = s.strict := rfl
@[simp] theorem State.setDcnt_len (n : Nat) : (s.setDcnt n).len = s.len := rfl
@[simp] theorem State.setDcnt_dcnt (n : Nat) : (s.setDcnt n).dcnt = BitVec.ofNat 21 n := rfl
@[simp] theorem State.setDcnt_err (n : Nat) : (s.setDcnt n).err = s.err := rfl
@[simp] theorem State.setDcnt_errcmd (n : Nat) : (s.setDcnt n).errcmd = s.errcmd := rfl
@[simp] theorem State.setDcnt_ivv (n : Nat) : (s.setDcnt n).ivv = s.ivv := rfl
@[simp] theorem State.setDcnt_chv (n : Nat) : (s.setDcnt n).chv = s.chv := rfl
@[simp] theorem State.setDcnt_padbad (n : Nat) : (s.setDcnt n).padbad = s.padbad := rfl
@[simp] theorem State.setDcnt_iv (n : Nat) : (s.setDcnt n).iv = s.iv := rfl
@[simp] theorem State.setDcnt_cv (n : Nat) : (s.setDcnt n).cv = s.cv := rfl
@[simp] theorem State.setDcnt_pv (n : Nat) : (s.setDcnt n).pv = s.pv := rfl
@[simp] theorem State.setDcnt_buf (n : Nat) : (s.setDcnt n).buf = s.buf := rfl
@[simp] theorem State.setDcnt_dlt (n : Nat) : (s.setDcnt n).dlt = s.dlt := rfl
@[simp] theorem State.setDcnt_draws (n : Nat) : (s.setDcnt n).draws = s.draws := rfl
@[simp] theorem State.setDcnt_pending (n : Nat) : (s.setDcnt n).pending = s.pending := rfl
@[simp] theorem State.setDcnt_replies (n : Nat) : (s.setDcnt n).replies = s.replies := rfl

@[simp] theorem State.setPadbad_bsize (b : Bool) : (s.setPadbad b).bsize = s.bsize := rfl
@[simp] theorem State.setPadbad_capr (b : Bool) : (s.setPadbad b).capr = s.capr := rfl
@[simp] theorem State.setPadbad_mode (b : Bool) : (s.setPadbad b).mode = s.mode := rfl
@[simp] theorem State.setPadbad_pad (b : Bool) : (s.setPadbad b).pad = s.pad := rfl
@[simp] theorem State.setPadbad_strict (b : Bool) : (s.setPadbad b).strict = s.strict := rfl
@[simp] theorem State.setPadbad_len (b : Bool) : (s.setPadbad b).len = s.len := rfl
@[simp] theorem State.setPadbad_dcnt (b : Bool) : (s.setPadbad b).dcnt = s.dcnt := rfl
@[simp] theorem State.setPadbad_err (b : Bool) : (s.setPadbad b).err = s.err := rfl
@[simp] theorem State.setPadbad_errcmd (b : Bool) : (s.setPadbad b).errcmd = s.errcmd := rfl
@[simp] theorem State.setPadbad_ivv (b : Bool) : (s.setPadbad b).ivv = s.ivv := rfl
@[simp] theorem State.setPadbad_chv (b : Bool) : (s.setPadbad b).chv = s.chv := rfl
@[simp] theorem State.setPadbad_padbad (b : Bool) : (s.setPadbad b).padbad = b := rfl
@[simp] theorem State.setPadbad_iv (b : Bool) : (s.setPadbad b).iv = s.iv := rfl
@[simp] theorem State.setPadbad_cv (b : Bool) : (s.setPadbad b).cv = s.cv := rfl
@[simp] theorem State.setPadbad_pv (b : Bool) : (s.setPadbad b).pv = s.pv := rfl
@[simp] theorem State.setPadbad_buf (b : Bool) : (s.setPadbad b).buf = s.buf := rfl
@[simp] theorem State.setPadbad_dlt (b : Bool) : (s.setPadbad b).dlt = s.dlt := rfl
@[simp] theorem State.setPadbad_draws (b : Bool) : (s.setPadbad b).draws = s.draws := rfl
@[simp] theorem State.setPadbad_pending (b : Bool) : (s.setPadbad b).pending = s.pending := rfl
@[simp] theorem State.setPadbad_replies (b : Bool) : (s.setPadbad b).replies = s.replies := rfl

@[simp] theorem State.loadIv_bsize (x : Block) : (s.loadIv x).bsize = s.bsize := rfl
@[simp] theorem State.loadIv_capr (x : Block) : (s.loadIv x).capr = s.capr := rfl
@[simp] theorem State.loadIv_mode (x : Block) : (s.loadIv x).mode = s.mode := rfl
@[simp] theorem State.loadIv_pad (x : Block) : (s.loadIv x).pad = s.pad := rfl
@[simp] theorem State.loadIv_strict (x : Block) : (s.loadIv x).strict = s.strict := rfl
@[simp] theorem State.loadIv_len (x : Block) : (s.loadIv x).len = s.len := rfl
@[simp] theorem State.loadIv_dcnt (x : Block) : (s.loadIv x).dcnt = s.dcnt := rfl
@[simp] theorem State.loadIv_err (x : Block) : (s.loadIv x).err = s.err := rfl
@[simp] theorem State.loadIv_errcmd (x : Block) : (s.loadIv x).errcmd = s.errcmd := rfl
@[simp] theorem State.loadIv_ivv (x : Block) : (s.loadIv x).ivv = true := rfl
@[simp] theorem State.loadIv_chv (x : Block) : (s.loadIv x).chv = false := rfl
@[simp] theorem State.loadIv_padbad (x : Block) : (s.loadIv x).padbad = s.padbad := rfl
@[simp] theorem State.loadIv_iv (x : Block) : (s.loadIv x).iv = x := rfl
@[simp] theorem State.loadIv_cv (x : Block) : (s.loadIv x).cv = s.cv := rfl
@[simp] theorem State.loadIv_pv (x : Block) : (s.loadIv x).pv = s.pv := rfl
@[simp] theorem State.loadIv_buf (x : Block) : (s.loadIv x).buf = s.buf := rfl
@[simp] theorem State.loadIv_dlt (x : Block) : (s.loadIv x).dlt = s.dlt := rfl
@[simp] theorem State.loadIv_draws (x : Block) : (s.loadIv x).draws = s.draws := rfl
@[simp] theorem State.loadIv_pending (x : Block) : (s.loadIv x).pending = s.pending := rfl
@[simp] theorem State.loadIv_replies (x : Block) : (s.loadIv x).replies = s.replies := rfl

@[simp] theorem State.setChain_bsize (x y : Block) : (s.setChain x y).bsize = s.bsize := rfl
@[simp] theorem State.setChain_capr (x y : Block) : (s.setChain x y).capr = s.capr := rfl
@[simp] theorem State.setChain_mode (x y : Block) : (s.setChain x y).mode = s.mode := rfl
@[simp] theorem State.setChain_pad (x y : Block) : (s.setChain x y).pad = s.pad := rfl
@[simp] theorem State.setChain_strict (x y : Block) : (s.setChain x y).strict = s.strict := rfl
@[simp] theorem State.setChain_len (x y : Block) : (s.setChain x y).len = s.len := rfl
@[simp] theorem State.setChain_dcnt (x y : Block) : (s.setChain x y).dcnt = s.dcnt := rfl
@[simp] theorem State.setChain_err (x y : Block) : (s.setChain x y).err = s.err := rfl
@[simp] theorem State.setChain_errcmd (x y : Block) : (s.setChain x y).errcmd = s.errcmd := rfl
@[simp] theorem State.setChain_ivv (x y : Block) : (s.setChain x y).ivv = s.ivv := rfl
@[simp] theorem State.setChain_chv (x y : Block) : (s.setChain x y).chv = s.chv := rfl
@[simp] theorem State.setChain_padbad (x y : Block) : (s.setChain x y).padbad = s.padbad := rfl
@[simp] theorem State.setChain_iv (x y : Block) : (s.setChain x y).iv = s.iv := rfl
@[simp] theorem State.setChain_cv (x y : Block) : (s.setChain x y).cv = x := rfl
@[simp] theorem State.setChain_pv (x y : Block) : (s.setChain x y).pv = y := rfl
@[simp] theorem State.setChain_buf (x y : Block) : (s.setChain x y).buf = s.buf := rfl
@[simp] theorem State.setChain_dlt (x y : Block) : (s.setChain x y).dlt = s.dlt := rfl
@[simp] theorem State.setChain_draws (x y : Block) : (s.setChain x y).draws = s.draws := rfl
@[simp] theorem State.setChain_pending (x y : Block) : (s.setChain x y).pending = s.pending := rfl
@[simp] theorem State.setChain_replies (x y : Block) : (s.setChain x y).replies = s.replies := rfl

@[simp] theorem State.setChv_bsize (b : Bool) : (s.setChv b).bsize = s.bsize := rfl
@[simp] theorem State.setChv_capr (b : Bool) : (s.setChv b).capr = s.capr := rfl
@[simp] theorem State.setChv_mode (b : Bool) : (s.setChv b).mode = s.mode := rfl
@[simp] theorem State.setChv_pad (b : Bool) : (s.setChv b).pad = s.pad := rfl
@[simp] theorem State.setChv_strict (b : Bool) : (s.setChv b).strict = s.strict := rfl
@[simp] theorem State.setChv_len (b : Bool) : (s.setChv b).len = s.len := rfl
@[simp] theorem State.setChv_dcnt (b : Bool) : (s.setChv b).dcnt = s.dcnt := rfl
@[simp] theorem State.setChv_err (b : Bool) : (s.setChv b).err = s.err := rfl
@[simp] theorem State.setChv_errcmd (b : Bool) : (s.setChv b).errcmd = s.errcmd := rfl
@[simp] theorem State.setChv_ivv (b : Bool) : (s.setChv b).ivv = s.ivv := rfl
@[simp] theorem State.setChv_chv (b : Bool) : (s.setChv b).chv = b := rfl
@[simp] theorem State.setChv_padbad (b : Bool) : (s.setChv b).padbad = s.padbad := rfl
@[simp] theorem State.setChv_iv (b : Bool) : (s.setChv b).iv = s.iv := rfl
@[simp] theorem State.setChv_cv (b : Bool) : (s.setChv b).cv = s.cv := rfl
@[simp] theorem State.setChv_pv (b : Bool) : (s.setChv b).pv = s.pv := rfl
@[simp] theorem State.setChv_buf (b : Bool) : (s.setChv b).buf = s.buf := rfl
@[simp] theorem State.setChv_dlt (b : Bool) : (s.setChv b).dlt = s.dlt := rfl
@[simp] theorem State.setChv_draws (b : Bool) : (s.setChv b).draws = s.draws := rfl
@[simp] theorem State.setChv_pending (b : Bool) : (s.setChv b).pending = s.pending := rfl
@[simp] theorem State.setChv_replies (b : Bool) : (s.setChv b).replies = s.replies := rfl

@[simp] theorem State.setBuf_bsize (m : Memory) : (s.setBuf m).bsize = s.bsize := rfl
@[simp] theorem State.setBuf_capr (m : Memory) : (s.setBuf m).capr = s.capr := rfl
@[simp] theorem State.setBuf_mode (m : Memory) : (s.setBuf m).mode = s.mode := rfl
@[simp] theorem State.setBuf_pad (m : Memory) : (s.setBuf m).pad = s.pad := rfl
@[simp] theorem State.setBuf_strict (m : Memory) : (s.setBuf m).strict = s.strict := rfl
@[simp] theorem State.setBuf_len (m : Memory) : (s.setBuf m).len = s.len := rfl
@[simp] theorem State.setBuf_dcnt (m : Memory) : (s.setBuf m).dcnt = s.dcnt := rfl
@[simp] theorem State.setBuf_err (m : Memory) : (s.setBuf m).err = s.err := rfl
@[simp] theorem State.setBuf_errcmd (m : Memory) : (s.setBuf m).errcmd = s.errcmd := rfl
@[simp] theorem State.setBuf_ivv (m : Memory) : (s.setBuf m).ivv = s.ivv := rfl
@[simp] theorem State.setBuf_chv (m : Memory) : (s.setBuf m).chv = s.chv := rfl
@[simp] theorem State.setBuf_padbad (m : Memory) : (s.setBuf m).padbad = s.padbad := rfl
@[simp] theorem State.setBuf_iv (m : Memory) : (s.setBuf m).iv = s.iv := rfl
@[simp] theorem State.setBuf_cv (m : Memory) : (s.setBuf m).cv = s.cv := rfl
@[simp] theorem State.setBuf_pv (m : Memory) : (s.setBuf m).pv = s.pv := rfl
@[simp] theorem State.setBuf_buf (m : Memory) : (s.setBuf m).buf = m := rfl
@[simp] theorem State.setBuf_dlt (m : Memory) : (s.setBuf m).dlt = s.dlt := rfl
@[simp] theorem State.setBuf_draws (m : Memory) : (s.setBuf m).draws = s.draws := rfl
@[simp] theorem State.setBuf_pending (m : Memory) : (s.setBuf m).pending = s.pending := rfl
@[simp] theorem State.setBuf_replies (m : Memory) : (s.setBuf m).replies = s.replies := rfl

@[simp] theorem State.setDlt_bsize (m : Memory) : (s.setDlt m).bsize = s.bsize := rfl
@[simp] theorem State.setDlt_capr (m : Memory) : (s.setDlt m).capr = s.capr := rfl
@[simp] theorem State.setDlt_mode (m : Memory) : (s.setDlt m).mode = s.mode := rfl
@[simp] theorem State.setDlt_pad (m : Memory) : (s.setDlt m).pad = s.pad := rfl
@[simp] theorem State.setDlt_strict (m : Memory) : (s.setDlt m).strict = s.strict := rfl
@[simp] theorem State.setDlt_len (m : Memory) : (s.setDlt m).len = s.len := rfl
@[simp] theorem State.setDlt_dcnt (m : Memory) : (s.setDlt m).dcnt = s.dcnt := rfl
@[simp] theorem State.setDlt_err (m : Memory) : (s.setDlt m).err = s.err := rfl
@[simp] theorem State.setDlt_errcmd (m : Memory) : (s.setDlt m).errcmd = s.errcmd := rfl
@[simp] theorem State.setDlt_ivv (m : Memory) : (s.setDlt m).ivv = s.ivv := rfl
@[simp] theorem State.setDlt_chv (m : Memory) : (s.setDlt m).chv = s.chv := rfl
@[simp] theorem State.setDlt_padbad (m : Memory) : (s.setDlt m).padbad = s.padbad := rfl
@[simp] theorem State.setDlt_iv (m : Memory) : (s.setDlt m).iv = s.iv := rfl
@[simp] theorem State.setDlt_cv (m : Memory) : (s.setDlt m).cv = s.cv := rfl
@[simp] theorem State.setDlt_pv (m : Memory) : (s.setDlt m).pv = s.pv := rfl
@[simp] theorem State.setDlt_buf (m : Memory) : (s.setDlt m).buf = s.buf := rfl
@[simp] theorem State.setDlt_dlt (m : Memory) : (s.setDlt m).dlt = m := rfl
@[simp] theorem State.setDlt_draws (m : Memory) : (s.setDlt m).draws = s.draws := rfl
@[simp] theorem State.setDlt_pending (m : Memory) : (s.setDlt m).pending = s.pending := rfl
@[simp] theorem State.setDlt_replies (m : Memory) : (s.setDlt m).replies = s.replies := rfl

@[simp] theorem State.setCtrl_bsize (m p : BitVec 3) (b : Bool) : (s.setCtrl m p b).bsize = s.bsize := rfl
@[simp] theorem State.setCtrl_capr (m p : BitVec 3) (b : Bool) : (s.setCtrl m p b).capr = s.capr := rfl
@[simp] theorem State.setCtrl_mode (m p : BitVec 3) (b : Bool) : (s.setCtrl m p b).mode = m := rfl
@[simp] theorem State.setCtrl_pad (m p : BitVec 3) (b : Bool) : (s.setCtrl m p b).pad = p := rfl
@[simp] theorem State.setCtrl_strict (m p : BitVec 3) (b : Bool) : (s.setCtrl m p b).strict = b := rfl
@[simp] theorem State.setCtrl_len (m p : BitVec 3) (b : Bool) : (s.setCtrl m p b).len = s.len := rfl
@[simp] theorem State.setCtrl_dcnt (m p : BitVec 3) (b : Bool) : (s.setCtrl m p b).dcnt = s.dcnt := rfl
@[simp] theorem State.setCtrl_err (m p : BitVec 3) (b : Bool) : (s.setCtrl m p b).err = s.err := rfl
@[simp] theorem State.setCtrl_errcmd (m p : BitVec 3) (b : Bool) : (s.setCtrl m p b).errcmd = s.errcmd := rfl
@[simp] theorem State.setCtrl_ivv (m p : BitVec 3) (b : Bool) : (s.setCtrl m p b).ivv = s.ivv := rfl
@[simp] theorem State.setCtrl_chv (m p : BitVec 3) (b : Bool) : (s.setCtrl m p b).chv = s.chv := rfl
@[simp] theorem State.setCtrl_padbad (m p : BitVec 3) (b : Bool) : (s.setCtrl m p b).padbad = s.padbad := rfl
@[simp] theorem State.setCtrl_iv (m p : BitVec 3) (b : Bool) : (s.setCtrl m p b).iv = s.iv := rfl
@[simp] theorem State.setCtrl_cv (m p : BitVec 3) (b : Bool) : (s.setCtrl m p b).cv = s.cv := rfl
@[simp] theorem State.setCtrl_pv (m p : BitVec 3) (b : Bool) : (s.setCtrl m p b).pv = s.pv := rfl
@[simp] theorem State.setCtrl_buf (m p : BitVec 3) (b : Bool) : (s.setCtrl m p b).buf = s.buf := rfl
@[simp] theorem State.setCtrl_dlt (m p : BitVec 3) (b : Bool) : (s.setCtrl m p b).dlt = s.dlt := rfl
@[simp] theorem State.setCtrl_draws (m p : BitVec 3) (b : Bool) : (s.setCtrl m p b).draws = s.draws := rfl
@[simp] theorem State.setCtrl_pending (m p : BitVec 3) (b : Bool) : (s.setCtrl m p b).pending = s.pending := rfl
@[simp] theorem State.setCtrl_replies (m p : BitVec 3) (b : Bool) : (s.setCtrl m p b).replies = s.replies := rfl

@[simp] theorem State.advanceDraws_bsize (n : Nat) : (s.advanceDraws n).bsize = s.bsize := rfl
@[simp] theorem State.advanceDraws_capr (n : Nat) : (s.advanceDraws n).capr = s.capr := rfl
@[simp] theorem State.advanceDraws_mode (n : Nat) : (s.advanceDraws n).mode = s.mode := rfl
@[simp] theorem State.advanceDraws_pad (n : Nat) : (s.advanceDraws n).pad = s.pad := rfl
@[simp] theorem State.advanceDraws_strict (n : Nat) : (s.advanceDraws n).strict = s.strict := rfl
@[simp] theorem State.advanceDraws_len (n : Nat) : (s.advanceDraws n).len = s.len := rfl
@[simp] theorem State.advanceDraws_dcnt (n : Nat) : (s.advanceDraws n).dcnt = s.dcnt := rfl
@[simp] theorem State.advanceDraws_err (n : Nat) : (s.advanceDraws n).err = s.err := rfl
@[simp] theorem State.advanceDraws_errcmd (n : Nat) : (s.advanceDraws n).errcmd = s.errcmd := rfl
@[simp] theorem State.advanceDraws_ivv (n : Nat) : (s.advanceDraws n).ivv = s.ivv := rfl
@[simp] theorem State.advanceDraws_chv (n : Nat) : (s.advanceDraws n).chv = s.chv := rfl
@[simp] theorem State.advanceDraws_padbad (n : Nat) : (s.advanceDraws n).padbad = s.padbad := rfl
@[simp] theorem State.advanceDraws_iv (n : Nat) : (s.advanceDraws n).iv = s.iv := rfl
@[simp] theorem State.advanceDraws_cv (n : Nat) : (s.advanceDraws n).cv = s.cv := rfl
@[simp] theorem State.advanceDraws_pv (n : Nat) : (s.advanceDraws n).pv = s.pv := rfl
@[simp] theorem State.advanceDraws_buf (n : Nat) : (s.advanceDraws n).buf = s.buf := rfl
@[simp] theorem State.advanceDraws_dlt (n : Nat) : (s.advanceDraws n).dlt = s.dlt := rfl
@[simp] theorem State.advanceDraws_draws (n : Nat) : (s.advanceDraws n).draws = s.draws + n := rfl
@[simp] theorem State.advanceDraws_pending (n : Nat) : (s.advanceDraws n).pending = s.pending := rfl
@[simp] theorem State.advanceDraws_replies (n : Nat) : (s.advanceDraws n).replies = s.replies := rfl

@[simp] theorem State.answer_bsize (r : Reply) : (s.answer r).bsize = s.bsize := rfl
@[simp] theorem State.answer_capr (r : Reply) : (s.answer r).capr = s.capr := rfl
@[simp] theorem State.answer_mode (r : Reply) : (s.answer r).mode = s.mode := rfl
@[simp] theorem State.answer_pad (r : Reply) : (s.answer r).pad = s.pad := rfl
@[simp] theorem State.answer_strict (r : Reply) : (s.answer r).strict = s.strict := rfl
@[simp] theorem State.answer_len (r : Reply) : (s.answer r).len = s.len := rfl
@[simp] theorem State.answer_dcnt (r : Reply) : (s.answer r).dcnt = s.dcnt := rfl
@[simp] theorem State.answer_err (r : Reply) : (s.answer r).err = s.err := rfl
@[simp] theorem State.answer_errcmd (r : Reply) : (s.answer r).errcmd = s.errcmd := rfl
@[simp] theorem State.answer_ivv (r : Reply) : (s.answer r).ivv = s.ivv := rfl
@[simp] theorem State.answer_chv (r : Reply) : (s.answer r).chv = s.chv := rfl
@[simp] theorem State.answer_padbad (r : Reply) : (s.answer r).padbad = s.padbad := rfl
@[simp] theorem State.answer_iv (r : Reply) : (s.answer r).iv = s.iv := rfl
@[simp] theorem State.answer_cv (r : Reply) : (s.answer r).cv = s.cv := rfl
@[simp] theorem State.answer_pv (r : Reply) : (s.answer r).pv = s.pv := rfl
@[simp] theorem State.answer_buf (r : Reply) : (s.answer r).buf = s.buf := rfl
@[simp] theorem State.answer_dlt (r : Reply) : (s.answer r).dlt = s.dlt := rfl
@[simp] theorem State.answer_draws (r : Reply) : (s.answer r).draws = s.draws := rfl
@[simp] theorem State.answer_pending (r : Reply) : (s.answer r).pending = s.pending := rfl
@[simp] theorem State.answer_replies (r : Reply) : (s.answer r).replies = r :: s.replies := rfl

@[simp] theorem State.setPending_bsize (as : List HostAction) : (s.setPending as).bsize = s.bsize := rfl
@[simp] theorem State.setPending_capr (as : List HostAction) : (s.setPending as).capr = s.capr := rfl
@[simp] theorem State.setPending_mode (as : List HostAction) : (s.setPending as).mode = s.mode := rfl
@[simp] theorem State.setPending_pad (as : List HostAction) : (s.setPending as).pad = s.pad := rfl
@[simp] theorem State.setPending_strict (as : List HostAction) : (s.setPending as).strict = s.strict := rfl
@[simp] theorem State.setPending_len (as : List HostAction) : (s.setPending as).len = s.len := rfl
@[simp] theorem State.setPending_dcnt (as : List HostAction) : (s.setPending as).dcnt = s.dcnt := rfl
@[simp] theorem State.setPending_err (as : List HostAction) : (s.setPending as).err = s.err := rfl
@[simp] theorem State.setPending_errcmd (as : List HostAction) : (s.setPending as).errcmd = s.errcmd := rfl
@[simp] theorem State.setPending_ivv (as : List HostAction) : (s.setPending as).ivv = s.ivv := rfl
@[simp] theorem State.setPending_chv (as : List HostAction) : (s.setPending as).chv = s.chv := rfl
@[simp] theorem State.setPending_padbad (as : List HostAction) : (s.setPending as).padbad = s.padbad := rfl
@[simp] theorem State.setPending_iv (as : List HostAction) : (s.setPending as).iv = s.iv := rfl
@[simp] theorem State.setPending_cv (as : List HostAction) : (s.setPending as).cv = s.cv := rfl
@[simp] theorem State.setPending_pv (as : List HostAction) : (s.setPending as).pv = s.pv := rfl
@[simp] theorem State.setPending_buf (as : List HostAction) : (s.setPending as).buf = s.buf := rfl
@[simp] theorem State.setPending_dlt (as : List HostAction) : (s.setPending as).dlt = s.dlt := rfl
@[simp] theorem State.setPending_draws (as : List HostAction) : (s.setPending as).draws = s.draws := rfl
@[simp] theorem State.setPending_pending (as : List HostAction) : (s.setPending as).pending = as := rfl
@[simp] theorem State.setPending_replies (as : List HostAction) : (s.setPending as).replies = s.replies := rfl

@[simp] theorem State.softReset_bsize : (s.softReset).bsize = s.bsize := rfl
@[simp] theorem State.softReset_capr : (s.softReset).capr = s.capr := rfl
@[simp] theorem State.softReset_mode : (s.softReset).mode = 0 := rfl
@[simp] theorem State.softReset_pad : (s.softReset).pad = 0 := rfl
@[simp] theorem State.softReset_strict : (s.softReset).strict = false := rfl
@[simp] theorem State.softReset_len : (s.softReset).len = 0 := rfl
@[simp] theorem State.softReset_dcnt : (s.softReset).dcnt = 0 := rfl
@[simp] theorem State.softReset_err : (s.softReset).err = none := rfl
@[simp] theorem State.softReset_errcmd : (s.softReset).errcmd = 0 := rfl
@[simp] theorem State.softReset_ivv : (s.softReset).ivv = false := rfl
@[simp] theorem State.softReset_chv : (s.softReset).chv = false := rfl
@[simp] theorem State.softReset_padbad : (s.softReset).padbad = false := rfl
@[simp] theorem State.softReset_iv : (s.softReset).iv = s.iv := rfl
@[simp] theorem State.softReset_cv : (s.softReset).cv = s.cv := rfl
@[simp] theorem State.softReset_pv : (s.softReset).pv = s.pv := rfl
@[simp] theorem State.softReset_buf : (s.softReset).buf = s.buf := rfl
@[simp] theorem State.softReset_dlt : (s.softReset).dlt = s.dlt := rfl
@[simp] theorem State.softReset_draws : (s.softReset).draws = s.draws := rfl
@[simp] theorem State.softReset_pending : (s.softReset).pending = s.pending := rfl
@[simp] theorem State.softReset_replies : (s.softReset).replies = s.replies := rfl

@[simp] theorem State.raise_bsize (e : Err) (o : Byte) : (s.raise e o).bsize = s.bsize := rfl
@[simp] theorem State.raise_capr (e : Err) (o : Byte) : (s.raise e o).capr = s.capr := rfl
@[simp] theorem State.raise_mode (e : Err) (o : Byte) : (s.raise e o).mode = s.mode := rfl
@[simp] theorem State.raise_pad (e : Err) (o : Byte) : (s.raise e o).pad = s.pad := rfl
@[simp] theorem State.raise_strict (e : Err) (o : Byte) : (s.raise e o).strict = s.strict := rfl
@[simp] theorem State.raise_len (e : Err) (o : Byte) : (s.raise e o).len = s.len := rfl
@[simp] theorem State.raise_dcnt (e : Err) (o : Byte) : (s.raise e o).dcnt = s.dcnt := rfl
@[simp] theorem State.raise_err (e : Err) (o : Byte) : (s.raise e o).err = some e := rfl
@[simp] theorem State.raise_errcmd (e : Err) (o : Byte) : (s.raise e o).errcmd = o := rfl
@[simp] theorem State.raise_ivv (e : Err) (o : Byte) : (s.raise e o).ivv = s.ivv := rfl
@[simp] theorem State.raise_chv (e : Err) (o : Byte) : (s.raise e o).chv = s.chv := rfl
@[simp] theorem State.raise_padbad (e : Err) (o : Byte) : (s.raise e o).padbad = s.padbad := rfl
@[simp] theorem State.raise_iv (e : Err) (o : Byte) : (s.raise e o).iv = s.iv := rfl
@[simp] theorem State.raise_cv (e : Err) (o : Byte) : (s.raise e o).cv = s.cv := rfl
@[simp] theorem State.raise_pv (e : Err) (o : Byte) : (s.raise e o).pv = s.pv := rfl
@[simp] theorem State.raise_buf (e : Err) (o : Byte) : (s.raise e o).buf = s.buf := rfl
@[simp] theorem State.raise_dlt (e : Err) (o : Byte) : (s.raise e o).dlt = s.dlt := rfl
@[simp] theorem State.raise_draws (e : Err) (o : Byte) : (s.raise e o).draws = s.draws := rfl
@[simp] theorem State.raise_pending (e : Err) (o : Byte) : (s.raise e o).pending = s.pending := rfl
@[simp] theorem State.raise_replies (e : Err) (o : Byte) : (s.raise e o).replies = s.replies := rfl

@[simp] theorem State.clearErr_bsize : (s.clearErr).bsize = s.bsize := rfl
@[simp] theorem State.clearErr_capr : (s.clearErr).capr = s.capr := rfl
@[simp] theorem State.clearErr_mode : (s.clearErr).mode = s.mode := rfl
@[simp] theorem State.clearErr_pad : (s.clearErr).pad = s.pad := rfl
@[simp] theorem State.clearErr_strict : (s.clearErr).strict = s.strict := rfl
@[simp] theorem State.clearErr_len : (s.clearErr).len = s.len := rfl
@[simp] theorem State.clearErr_dcnt : (s.clearErr).dcnt = s.dcnt := rfl
@[simp] theorem State.clearErr_err : (s.clearErr).err = none := rfl
@[simp] theorem State.clearErr_errcmd : (s.clearErr).errcmd = 0 := rfl
@[simp] theorem State.clearErr_ivv : (s.clearErr).ivv = s.ivv := rfl
@[simp] theorem State.clearErr_chv : (s.clearErr).chv = s.chv := rfl
@[simp] theorem State.clearErr_padbad : (s.clearErr).padbad = s.padbad := rfl
@[simp] theorem State.clearErr_iv : (s.clearErr).iv = s.iv := rfl
@[simp] theorem State.clearErr_cv : (s.clearErr).cv = s.cv := rfl
@[simp] theorem State.clearErr_pv : (s.clearErr).pv = s.pv := rfl
@[simp] theorem State.clearErr_buf : (s.clearErr).buf = s.buf := rfl
@[simp] theorem State.clearErr_dlt : (s.clearErr).dlt = s.dlt := rfl
@[simp] theorem State.clearErr_draws : (s.clearErr).draws = s.draws := rfl
@[simp] theorem State.clearErr_pending : (s.clearErr).pending = s.pending := rfl
@[simp] theorem State.clearErr_replies : (s.clearErr).replies = s.replies := rfl

end Sys2Proof.Machine
end

