-- ==== Sys2Proof/Laws/Command.lean ====
section
/-! SUPPORT. What a command can do (dropped, an error, its effect), and what its checks mean. -/

namespace Sys2Proof.Machine

variable {s t : State} {opc : Byte} {checks : List (Bool × Err)} {body : State}

@[simp] theorem firstFailing_nil : firstFailing [] = none := rfl

@[simp] theorem firstFailing_cons (b : Bool) (e : Err) (rest : List (Bool × Err)) :
    firstFailing ((b, e) :: rest) = if b then some e else firstFailing rest := rfl

theorem firstFailing_eq_none : firstFailing checks = none ↔ ∀ c ∈ checks, c.1 = false := by
  induction checks with
  | nil => simp
  | cons c checks ih => obtain ⟨b, e⟩ := c; cases b <;> simp [ih]

theorem mem_of_firstFailing {e : Err} (h : firstFailing checks = some e) : (true, e) ∈ checks := by
  induction checks with
  | nil => simp at h
  | cons c checks ih => obtain ⟨b, e'⟩ := c; cases b <;> simp_all

/-- While an error is pending a command is dropped (R223). -/
theorem State.command_of_err (h : s.err ≠ none) : s.command opc checks body = s := by
  obtain ⟨e, he⟩ := Option.ne_none_iff_exists'.1 h
  simp [State.command, he]

/-- The first failing check raises its error (R14). -/
theorem State.command_of_fail {e : Err} (h : s.err = none) (hf : firstFailing checks = some e) :
    s.command opc checks body = s.raise e opc := by simp [State.command, h, hf]

/-- A command with no failing check has its effect. -/
theorem State.command_of_pass (h : s.err = none) (hf : firstFailing checks = none) :
    s.command opc checks body = body := by simp [State.command, h, hf]

/-- Everything a command can do. -/
theorem State.command_cases (s : State) (opc : Byte) (checks : List (Bool × Err)) (body : State) :
    (s.err ≠ none ∧ s.command opc checks body = s) ∨
    (s.err = none ∧ ∃ e, firstFailing checks = some e ∧ s.command opc checks body = s.raise e opc) ∨
    (s.err = none ∧ firstFailing checks = none ∧ s.command opc checks body = body) := by
  by_cases h : s.err = none
  · cases hf : firstFailing checks with
    | none => exact .inr (.inr ⟨h, rfl, s.command_of_pass h hf⟩)
    | some e => exact .inr (.inl ⟨h, e, rfl, s.command_of_fail h hf⟩)
  · exact .inl ⟨h, s.command_of_err h⟩

/-- No command stops the machine: `exec` answers a next state for every command in every state (R230). -/
theorem exec_next (i : Instr) (s : State) : ∃ t, exec i s = .next t := by cases i <;> exact ⟨_, rfl⟩

/-! ## Selectors -/

@[simp] theorem Mode.ofCode_code (m : Mode) : Mode.ofCode m.code = some m := by cases m <;> rfl

@[simp] theorem Scheme.ofCode_code (p : Scheme) : Scheme.ofCode p.code = some p := by cases p <;> rfl

/-- A mode code selects a mode exactly when it is that mode's code. -/
theorem Mode.ofCode_eq_some {c : BitVec 3} {m : Mode} : Mode.ofCode c = some m ↔ c = m.code := by
  revert c m; intro c m; cases m <;> revert c <;> decide

theorem Scheme.ofCode_eq_some {c : BitVec 3} {p : Scheme} : Scheme.ofCode c = some p ↔ c = p.code := by
  revert c p; intro c p; cases p <;> revert c <;> decide

theorem Mode.ofCode_eq_none {c : BitVec 3} : Mode.ofCode c = none ↔ c = 7 := by revert c; decide

theorem Scheme.ofCode_eq_none {c : BitVec 3} : Scheme.ofCode c = Option.none ↔ 5 ≤ c.toNat := by revert c; decide

theorem Mode.usesIv_code {m : Mode} : m.usesIv = true ↔ 1 ≤ m.code.toNat ∧ m.code.toNat ≤ 5 := by
  cases m <;> decide

theorem Scheme.countBearing_code {p : Scheme} :
    p.countBearing = true ↔ (p.code = 2 ∨ p.code = 3 ∨ p.code = 4) := by cases p <;> decide

/-! ## The checks as propositions -/

theorem State.modeReserved_iff : s.modeReserved = true ↔ s.mode = 7 := by
  simp [State.modeReserved, State.selMode, Option.isNone_iff_eq_none, Mode.ofCode_eq_none]

theorem State.padReserved_iff : s.padReserved = true ↔ 5 ≤ s.pad.toNat := by
  simp only [State.padReserved, State.selScheme, Option.isNone_iff_eq_none, Scheme.ofCode_eq_none]

theorem State.padCounts_iff : s.padCounts = true ↔ (s.pad = 2 ∨ s.pad = 3 ∨ s.pad = 4) := by
  unfold State.padCounts State.selScheme; generalize s.pad = c; revert c; decide

theorem State.padTooWide_iff :
    s.padTooWide = true ↔ (s.pad = 2 ∨ s.pad = 3 ∨ s.pad = 4) ∧ s.bsize = 256 := by
  simp [State.padTooWide, State.padCounts_iff]

@[simp] theorem State.lenOver_iff : s.lenOver = true ↔ s.capr < s.len.toNat := by simp [State.lenOver]

@[simp] theorem State.unaligned_iff : s.unaligned = true ↔ s.len.toNat % s.bsize ≠ 0 := by simp [State.unaligned]

theorem State.noneUnaligned_iff : s.noneUnaligned = true ↔ s.pad = 0 ∧ s.len.toNat % s.bsize ≠ 0 := by
  have : Scheme.ofCode s.pad = some .none ↔ s.pad = 0 := Scheme.ofCode_eq_some
  simp [State.noneUnaligned, State.selScheme, this]

theorem State.emptyCounted_iff : s.emptyCounted = true ↔ (s.pad = 2 ∨ s.pad = 3 ∨ s.pad = 4) ∧ s.len = 0 := by
  simp [State.emptyCounted, State.padCounts_iff, BitVec.toNat_eq]

theorem State.noChain_iff : s.noChain = true ↔ (1 ≤ s.mode.toNat ∧ s.mode.toNat ≤ 5) ∧ s.chv = false := by
  have : (Mode.ofCode s.mode).any Mode.usesIv = true ↔ (1 ≤ s.mode.toNat ∧ s.mode.toNat ≤ 5) := by
    generalize s.mode = c; revert c; decide
  simp [State.noChain, State.selMode, this]

theorem State.deltasMissing_iff :
    s.deltasMissing = true ↔ s.mode = 6 ∧ s.dcnt.toNat ≠ s.len.toNat / s.bsize := by
  have : Mode.ofCode s.mode = some .rd ↔ s.mode = 6 := Mode.ofCode_eq_some
  simp [State.deltasMissing, State.selMode, this]

theorem State.padOverflows_iff :
    s.padOverflows = true ↔
      ∃ p, Scheme.ofCode s.pad = some p ∧ s.capr < s.len.toNat + padLen s.bsize p s.len.toNat := by
  unfold State.padOverflows State.selScheme
  cases Scheme.ofCode s.pad <;> simp

end Sys2Proof.Machine
end

