-- ==== Sys2Proof/Laws/Bus.lean ====
section
/-! SUPPORT. What the host actions do: the aligned accesses, the command port, and everything a step can do. -/

namespace Sys2Proof.Machine

variable {s t : State} {off : Nat} {w : Word} {a : HostAction} {rest : List HostAction}

theorem regAccess_iff : regAccess off = true ↔ off % 4 = 0 ∧ off < 0x100 := by simp [regAccess]

theorem perform_regRead (h : regAccess off = true) (s : State) :
    perform (.regRead off) s = .next { s with replies := .word (s.regValue off) :: s.replies } := by
  simp [perform, h, State.answer]

/-- A write to `CMD` issues the word as a command (R31). -/
theorem perform_cmd (w : Word) (s : State) : perform (.regWrite 0x08 w) s = issue w s := rfl

theorem perform_regWrite (h : regAccess off = true) (hc : off ≠ 0x08) (w : Word) (s : State) :
    perform (.regWrite off w) s = .next (s.writeReg off w) := by simp [perform, h, cmdOffset, hc]

theorem perform_misaligned (h : regAccess off = false) (w : Word) (s : State) :
    perform (.regRead off) s = .refused (.notHostAction off) ∧
      perform (.regWrite off w) s = .refused (.notHostAction off) := by simp [perform, h]

theorem issue_of_ok {i : Instr} (h : decode w = .ok i) (s : State) : issue w s = exec i s := by simp [issue, h]

theorem issue_of_error {e : DecodeError} (h : decode w = .error e) (s : State) :
    issue w s = .next (s.illegalCommand w) := by simp [issue, h]

/-- An illegal word raises `E_CMD`, or is dropped while an error is pending (R93). -/
theorem State.illegalCommand_cases (s : State) (w : Word) :
    (s.err ≠ none ∧ s.illegalCommand w = s) ∨ (s.err = none ∧ s.illegalCommand w = s.raise .cmd (opcField w)) := by
  rcases s.command_cases (opcField w) [(true, .cmd)] s with h | ⟨h, e, hf, he⟩ | ⟨h, hf, -⟩
  · exact .inl h
  · refine .inr ⟨h, ?_⟩
    obtain rfl : Err.cmd = e := by simpa using hf
    exact he
  · simp at hf

/-- Everything a step can do: nothing, or the next host action on the state without it. -/
theorem step_cases (s : State) :
    (s.pending = [] ∧ step s = .next s) ∨
    ∃ a rest, s.pending = a :: rest ∧ step s = perform a (s.setPending rest) := by
  unfold step
  cases s.pending with
  | nil => exact .inl ⟨rfl, rfl⟩
  | cons a rest => exact .inr ⟨a, rest, rfl, rfl⟩

/-- Everything a host action that takes effect can do: answer a read, issue a command, write a register, write a window. -/
theorem perform_cases (h : perform a s = .next t) :
    (∃ r, t = s.answer r) ∨
    (∃ w, a = .regWrite 0x08 w ∧ issue w s = .next t) ∨
    (∃ off w, a = .regWrite off w ∧ off ≠ 0x08 ∧ t = s.writeReg off w) ∨
    ∃ sp k v, a = .winWrite sp k v ∧ t = s.writeWin sp k v := by
  cases a with
  | regRead off =>
    simp only [perform] at h
    split at h
    · exact .inl ⟨_, (Host.Outcome.next.inj h).symm⟩
    · simp at h
  | winRead sp k => exact .inl ⟨_, (Host.Outcome.next.inj h).symm⟩
  | winWrite sp k v => exact .inr (.inr (.inr ⟨sp, k, v, rfl, (Host.Outcome.next.inj h).symm⟩))
  | regWrite off w =>
    simp only [perform] at h
    split at h
    · split at h
      · rename_i ho; subst ho; exact .inr (.inl ⟨w, rfl, h⟩)
      · exact .inr (.inr (.inl ⟨off, w, rfl, ‹_›, (Host.Outcome.next.inj h).symm⟩))
    · simp at h

/-- Everything a register write other than to `CMD` can do. -/
theorem State.writeReg_cases (s : State) (off : Nat) (w : Word) :
    s.writeReg off w = s.writeCtrl w ∨ s.writeReg off w = { s with len := w.extractLsb' 0 21 } ∨
    s.writeReg off w = { s with dcnt := w.extractLsb' 0 21 } ∨ s.writeReg off w = s := by
  unfold State.writeReg
  split
  · exact .inl rfl
  · exact .inr (.inl (by rw [State.setLen, BitVec.ofNat_toNat, BitVec.setWidth_eq]))
  · exact .inr (.inr (.inl (by rw [State.setDcnt, BitVec.ofNat_toNat, BitVec.setWidth_eq])))
  · exact .inr (.inr (.inr rfl))

/-- A write to `CTRL`: the three fields, and `CHV` survives only an unchanged `MODE` (R29). -/
theorem State.writeCtrl_eq (s : State) (w : Word) :
    s.writeCtrl w = { s with
      mode := w.extractLsb' 0 3, pad := w.extractLsb' 4 3, strict := w.getLsbD 8,
      chv := s.chv && decide (w.extractLsb' 0 3 = s.mode) } := by
  unfold State.writeCtrl
  split <;> rename_i h
  · cases s; simp_all [State.setCtrl]
  · cases s; simp_all [State.setCtrl, State.setChv]

/-- Everything a window write can do. -/
theorem State.writeWin_cases (s : State) (sp : Space) (k : Nat) (v : Byte) :
    (k < s.capr ∧ s.writeWin sp k v = { s with buf := s.buf.write k v }) ∨
    (k < s.capr ∧ s.writeWin sp k v = { s with dlt := s.dlt.write k v }) ∨ s.writeWin sp k v = s := by
  unfold State.writeWin
  split
  · rename_i hk
    cases sp
    case buf => exact .inl ⟨hk, rfl⟩
    case dlt => exact .inr (.inl ⟨hk, rfl⟩)
    all_goals exact .inr (.inr rfl)
  · exact .inr (.inr rfl)

end Sys2Proof.Machine
end

