-- ==== Sys2Proof/Laws/Memory.lean ====
section
/-! SUPPORT. What the memory operations do: a read after a write, the canonical form, byte runs and blocks. -/

namespace Sys2Proof.Machine

variable {m m' : Memory} {a b cap n B : Nat} {v : Byte} {l : List Byte}

@[simp] theorem Memory.read_nil (a : Nat) : Memory.read [] a = Memory.unlisted := rfl

theorem Memory.read_cons (b : Nat) (w : Byte) (m : Memory) (a : Nat) :
    Memory.read ((b, w) :: m) a = if a = b then w else m.read a := rfl

/-- An address that no entry has reads as `Memory.unlisted`. -/
theorem Memory.read_of_not_listed (h : ∀ c ∈ m, c.1 ≠ a) : m.read a = Memory.unlisted := by
  induction m with
  | nil => rfl
  | cons c m ih =>
    rw [Memory.read_cons, if_neg (fun e => h c (by simp) e.symm)]
    exact ih fun d hd => h d (by simp [hd])

/-- A write leaves every other address alone. -/
theorem Memory.read_write_other (h : b ≠ a) (m : Memory) (v : Byte) : (m.write a v).read b = m.read b := by
  induction m with
  | nil => unfold Memory.write; split <;> simp [Memory.read_cons, h]
  | cons c m ih =>
    obtain ⟨d, w⟩ := c
    unfold Memory.write
    split_ifs <;> simp_all [Memory.read_cons]

/-- A read after a write to the same address gives the value written. -/
theorem Memory.read_write_same (h : m.wf) (a : Nat) (v : Byte) : (m.write a v).read a = v := by
  induction m with
  | nil => unfold Memory.write; split <;> simp_all [Memory.read_cons]
  | cons c m ih =>
    obtain ⟨d, w⟩ := c
    obtain ⟨hs, hz⟩ := h
    rw [List.pairwise_cons] at hs
    have later : a ≤ d → Memory.read m a = Memory.unlisted := fun had =>
      Memory.read_of_not_listed fun e he => by have := hs.1 e he; simp at this; omega
    have ih' := ih ⟨hs.2, fun e he => hz e (by simp [he])⟩
    unfold Memory.write
    split_ifs with h1 h2 h3 h4
    · rw [Memory.read_cons, if_neg (by omega), later (by omega), h2]
    · simp [Memory.read_cons]
    · rw [later (by omega), h4]
    · simp [Memory.read_cons]
    · rw [Memory.read_cons, if_neg h3, ih']

/-- The entries after a write: the written one, or old ones. -/
theorem Memory.mem_write {c : Host.Cell} (h : c ∈ m.write a v) : (c = (a, v) ∧ v ≠ Memory.unlisted) ∨ c ∈ m := by
  induction m with
  | nil => unfold Memory.write at h; split at h <;> simp_all
  | cons d m ih =>
    obtain ⟨d, w⟩ := d
    unfold Memory.write at h
    split_ifs at h <;> simp_all
    · tauto
    · rcases h with h | h
      · exact .inr (.inl h)
      · rcases ih h with h | h <;> tauto

/-- A write keeps the canonical form. -/
theorem Memory.wf_write (h : m.wf) (a : Nat) (v : Byte) : (m.write a v).wf := by
  refine ⟨?_, fun c hc => ?_⟩
  · induction m with
    | nil => unfold Memory.write; split <;> simp
    | cons c m ih =>
      obtain ⟨d, w⟩ := c
      obtain ⟨hs, hz⟩ := h
      have hs' := List.pairwise_cons.1 hs
      have ih' := ih ⟨hs'.2, fun e he => hz e (by simp [he])⟩
      unfold Memory.write
      split_ifs with h1 h2 h3 h4
      · exact hs
      · refine List.pairwise_cons.2 ⟨fun e he => ?_, hs⟩
        rcases List.mem_cons.1 he with rfl | he
        · exact h1
        · exact Nat.lt_trans h1 (hs'.1 e he)
      · exact hs'.2
      · exact List.pairwise_cons.2 ⟨fun e he => h3 ▸ hs'.1 e he, hs'.2⟩
      · refine List.pairwise_cons.2 ⟨fun e he => ?_, ih'⟩
        rcases Memory.mem_write he with ⟨rfl, -⟩ | he
        · show d < a; omega
        · exact hs'.1 e he
  · rcases Memory.mem_write hc with ⟨rfl, hv⟩ | hc
    · exact hv
    · exact h.2 c hc

/-- A write below `cap` keeps the memory below `cap`. -/
theorem Memory.below_write (h : m.below cap) (ha : a < cap) (v : Byte) : (m.write a v).below cap := fun c hc => by
  rcases Memory.mem_write hc with ⟨rfl, -⟩ | hc
  · exact ha
  · exact h c hc

/-- Above its bound a memory reads as `Memory.unlisted`. -/
theorem Memory.read_of_below (h : m.below cap) (ha : cap ≤ a) : m.read a = Memory.unlisted :=
  Memory.read_of_not_listed fun c hc => by have := h c hc; omega

/-- A memory in canonical form is determined by what it reads as. -/
theorem Memory.ext_read (h : m.wf) (h' : m'.wf) (heq : ∀ a, m.read a = m'.read a) : m = m' := by
  induction m generalizing m' with
  | nil =>
    cases m' with
    | nil => rfl
    | cons c m' =>
      have := heq c.1
      rw [Memory.read_cons, if_pos rfl, Memory.read_nil] at this
      exact absurd this.symm (h'.2 c (by simp))
  | cons c m ih =>
    have hs := List.pairwise_cons.1 h.1
    cases m' with
    | nil =>
      have := heq c.1
      rw [Memory.read_cons, if_pos rfl, Memory.read_nil] at this
      exact absurd this (h.2 c (by simp))
    | cons c' m' =>
      have hs' := List.pairwise_cons.1 h'.1
      obtain ⟨d, w⟩ := c
      obtain ⟨d', w'⟩ := c'
      have hw : w ≠ Memory.unlisted := h.2 (d, w) (by simp)
      have hw' : w' ≠ Memory.unlisted := h'.2 (d', w') (by simp)
      have fresh : ∀ {x : Nat}, x ≤ d → Memory.read m x = Memory.unlisted := fun hx =>
        Memory.read_of_not_listed fun e he => by have := hs.1 e he; simp at this; omega
      have fresh' : ∀ {x : Nat}, x ≤ d' → Memory.read m' x = Memory.unlisted := fun hx =>
        Memory.read_of_not_listed fun e he => by have := hs'.1 e he; simp at this; omega
      have hd : d = d' := by
        rcases Nat.lt_trichotomy d d' with hlt | rfl | hlt
        · have := heq d
          rw [Memory.read_cons, if_pos rfl, Memory.read_cons, if_neg (by omega), fresh' (by omega)] at this
          exact absurd this hw
        · rfl
        · have := heq d'
          rw [Memory.read_cons, if_neg (by omega), Memory.read_cons, if_pos rfl, fresh (by omega)] at this
          exact absurd this.symm hw'
      subst hd
      have hww : w = w' := by simpa [Memory.read_cons] using heq d
      subst hww
      congr 1
      refine ih ⟨hs.2, fun e he => h.2 e (by simp [he])⟩ ⟨hs'.2, fun e he => h'.2 e (by simp [he])⟩ fun x => ?_
      by_cases hx : x = d
      · subst hx; rw [fresh (le_refl _), fresh' (le_refl _)]
      · simpa [Memory.read_cons, hx] using heq x

/-! ## Byte runs -/

@[simp] theorem Memory.length_readN (m : Memory) (a n : Nat) : (m.readN a n).length = n := by
  induction n generalizing a with
  | zero => rfl
  | succ n ih => simp [Memory.readN, ih]

/-- Byte `k` of a run is the byte at its address. -/
theorem Memory.getElem_readN (m : Memory) (a : Nat) {n k : Nat} (h : k < (m.readN a n).length) :
    (m.readN a n)[k] = m.read (a + k) := by
  induction n generalizing a k with
  | zero => simp at h
  | succ n ih =>
    cases k with
    | zero => rfl
    | succ k => simp only [Memory.readN, List.getElem_cons_succ]; rw [ih]; congr 1; omega

/-- A run of bytes is determined by the reads in its range. -/
theorem Memory.readN_congr (h : ∀ k < n, m.read (a + k) = m'.read (b + k)) : m.readN a n = m'.readN b n :=
  List.ext_getElem (by simp) fun k hk _ => by
    rw [Memory.getElem_readN, Memory.getElem_readN]; exact h k (by simpa using hk)

theorem Memory.readN_add (m : Memory) (a n k : Nat) : m.readN a (n + k) = m.readN a n ++ m.readN (a + n) k := by
  induction n generalizing a with
  | zero => simp [Memory.readN]
  | succ n ih =>
    rw [Nat.succ_add]
    simp [Memory.readN, ih, Nat.add_assoc, Nat.add_comm 1]

theorem Memory.readN_eq_map_range (m : Memory) (n : Nat) : m.readN 0 n = (List.range n).map m.read :=
  List.ext_getElem (by simp) fun k hk _ => by rw [Memory.getElem_readN]; simp

/-- A run of writes leaves every address outside it alone. -/
theorem Memory.read_writeN_other (h : b < a ∨ a + l.length ≤ b) (m : Memory) : (m.writeN a l).read b = m.read b := by
  induction l generalizing m a with
  | nil => rfl
  | cons v l ih =>
    simp only [List.length_cons] at h
    rw [Memory.writeN, ih (by omega), Memory.read_write_other (by omega)]

theorem Memory.wf_writeN (h : m.wf) (a : Nat) (l : List Byte) : (m.writeN a l).wf := by
  induction l generalizing m a with
  | nil => exact h
  | cons v l ih => exact ih (Memory.wf_write h a v) _

theorem Memory.below_writeN (h : m.below cap) (ha : a + l.length ≤ cap) : (m.writeN a l).below cap := by
  induction l generalizing m a with
  | nil => exact h
  | cons v l ih =>
    simp only [List.length_cons] at ha
    exact ih (Memory.below_write h (by omega) v) (by omega)

/-- A read inside a run of writes gives the byte written there. -/
theorem Memory.read_writeN (h : m.wf) (a : Nat) {k : Nat} (hk : k < l.length) : (m.writeN a l).read (a + k) = l[k] := by
  induction l generalizing m a k with
  | nil => simp at hk
  | cons v l ih =>
    cases k with
    | zero =>
      rw [Memory.writeN, Memory.read_writeN_other (by omega)]
      exact Memory.read_write_same h a v
    | succ k =>
      have := ih (Memory.wf_write h a v) (a + 1) (k := k) (by simpa using hk)
      rw [Memory.writeN, List.getElem_cons_succ, ← this]; congr 1; omega

/-- A run read back after it was written. -/
theorem Memory.readN_writeN (h : m.wf) (a : Nat) (l : List Byte) : (m.writeN a l).readN a l.length = l :=
  List.ext_getElem (by simp) fun k hk _ => by
    rw [Memory.getElem_readN, Memory.read_writeN h a]

/-- A run that a run of writes does not meet. -/
theorem Memory.readN_writeN_other (h : b + n ≤ a ∨ a + l.length ≤ b) (m : Memory) :
    (m.writeN a l).readN b n = m.readN b n :=
  Memory.readN_congr fun k hk => Memory.read_writeN_other (by omega) m

theorem Memory.writeN_append (m : Memory) (a : Nat) (l l' : List Byte) :
    m.writeN a (l ++ l') = (m.writeN a l).writeN (a + l.length) l' := by
  induction l generalizing m a with
  | nil => rfl
  | cons v l ih =>
    rw [List.cons_append, Memory.writeN, ih, Memory.writeN]; congr 1; simp; omega

/-! ## Blocks -/

@[simp] theorem Memory.length_blocks (m : Memory) (a B n : Nat) : (m.blocks a B n).length = n := by
  induction n generalizing a with
  | zero => rfl
  | succ n ih => simp [Memory.blocks, ih]

theorem Memory.length_of_mem_blocks {x : Block} (h : x ∈ m.blocks a B n) : x.length = B := by
  induction n generalizing a with
  | zero => simp [Memory.blocks] at h
  | succ n ih =>
    rcases List.mem_cons.1 h with rfl | h
    · simp
    · exact ih h

/-- Block `i` is the run of `B` bytes at `a + i·B`. -/
theorem Memory.getElem_blocks (m : Memory) (a B : Nat) {n i : Nat} (h : i < (m.blocks a B n).length) :
    (m.blocks a B n)[i] = m.readN (a + i * B) B := by
  induction n generalizing a i with
  | zero => simp at h
  | succ n ih =>
    cases i with
    | zero => simp [Memory.blocks]
    | succ i =>
      simp only [Memory.blocks, List.getElem_cons_succ]
      rw [ih]; congr 1; rw [Nat.succ_mul]; omega

/-- The blocks of a memory are the chunks of its bytes. -/
theorem Memory.blocks_eq_chunks (m : Memory) (a B n : Nat) : m.blocks a B n = chunks B n (m.readN a (n * B)) := by
  induction n generalizing a with
  | zero => rfl
  | succ n ih =>
    have : (n + 1) * B = B + n * B := by rw [Nat.succ_mul]; omega
    rw [Memory.blocks, chunks, ih, this, Memory.readN_add]
    congr 1
    · rw [List.take_left' (by simp)]
    · rw [List.drop_left' (by simp)]

theorem Memory.flatten_blocks (m : Memory) (a B n : Nat) : (m.blocks a B n).flatten = m.readN a (n * B) := by
  induction n generalizing a with
  | zero => simp [Memory.blocks, Memory.readN]
  | succ n ih =>
    have : (n + 1) * B = B + n * B := by rw [Nat.succ_mul]; omega
    rw [Memory.blocks, List.flatten_cons, ih, this, Memory.readN_add]

theorem length_flatten_blocks {bl : List Block} (h : ∀ x ∈ bl, x.length = B) : bl.flatten.length = bl.length * B := by
  induction bl with
  | nil => simp
  | cons x bl ih =>
    rw [List.flatten_cons, List.length_append, ih fun y hy => h y (by simp [hy]), h x (by simp), List.length_cons,
      Nat.succ_mul]
    omega

theorem chunks_flatten {bl : List Block} (h : ∀ x ∈ bl, x.length = B) : chunks B bl.length bl.flatten = bl := by
  induction bl with
  | nil => rfl
  | cons x bl ih =>
    rw [List.length_cons, chunks, List.flatten_cons, List.take_left' (h x (by simp)), List.drop_left' (h x (by simp)),
      ih fun y hy => h y (by simp [hy])]

/-- Blocks read back after they were written. -/
theorem Memory.blocks_writeN (h : m.wf) (a : Nat) {bl : List Block} (hl : ∀ x ∈ bl, x.length = B) :
    (m.writeN a bl.flatten).blocks a B bl.length = bl := by
  rw [Memory.blocks_eq_chunks, ← length_flatten_blocks hl, Memory.readN_writeN h, chunks_flatten hl]

theorem Memory.blocks_congr (h : ∀ k < n * B, m.read (a + k) = m'.read (b + k)) : m.blocks a B n = m'.blocks b B n := by
  rw [Memory.blocks_eq_chunks, Memory.blocks_eq_chunks, Memory.readN_congr h]

theorem Memory.blocks_add (m : Memory) (a B n k : Nat) :
    m.blocks a B (n + k) = m.blocks a B n ++ m.blocks (a + n * B) B k := by
  induction n generalizing a with
  | zero => simp [Memory.blocks]
  | succ n ih =>
    rw [Nat.succ_add, Memory.blocks, ih, Memory.blocks, List.cons_append]
    congr 3; rw [Nat.succ_mul]; omega

/-! ## Draws -/

@[simp] theorem length_drawn (env : Env) (k n : Nat) : (drawn env k n).length = n := by
  induction n generalizing k with
  | zero => rfl
  | succ n ih => simp [drawn, ih]

theorem getElem_drawn (env : Env) (k : Nat) {n j : Nat} (h : j < (drawn env k n).length) :
    (drawn env k n)[j] = env.draw (k + j) := by
  induction n generalizing k j with
  | zero => simp at h
  | succ n ih =>
    cases j with
    | zero => rfl
    | succ j => simp only [drawn, List.getElem_cons_succ]; rw [ih]; congr 1; omega

theorem drawn_add (env : Env) (k n j : Nat) : drawn env k (n + j) = drawn env k n ++ drawn env (k + n) j := by
  induction n generalizing k with
  | zero => simp [drawn]
  | succ n ih => rw [Nat.succ_add]; simp [drawn, ih, Nat.add_assoc, Nat.add_comm 1]

end Sys2Proof.Machine
end

