-- ==== Sys2Proof/Laws/Chaining.lean ====
section
/-! SUPPORT. Lengths in the chaining layer, and what the chaining steps do to a state. -/

namespace Sys2Proof.Machine

variable {B : Nat} {env : Env} {m : Mode} {c : Chain} {x y δ : Block} {s : State}

@[simp] theorem length_E (env : Env) (x : Block) : (env.E x).length = x.length := by simp [Env.E]

@[simp] theorem length_D (env : Env) (x : Block) : (env.D x).length = x.length := by simp [Env.D]

@[simp] theorem length_xorBlock (x y : Block) : (xorBlock x y).length = min x.length y.length := by simp [xorBlock]

@[simp] theorem length_beBytes (n v : Nat) : (beBytes n v).length = n := by
  induction n with
  | zero => rfl
  | succ n ih => simp [beBytes, ih]

@[simp] theorem length_incBlock (v : Block) : (incBlock v).length = v.length := by simp [incBlock]

/-- XOR with the same block twice gives the block back. -/
theorem xorBlock_cancel (h : x.length = y.length) : xorBlock (xorBlock x y) y = x := by
  induction x generalizing y with
  | nil => simp [xorBlock]
  | cons a x ih =>
    cases y with
    | nil => simp at h
    | cons b y => simpa [xorBlock, BitVec.xor_assoc] using ih (by simpa using h)

/-- The chain state and a step's blocks have `B` bytes each. -/
abbrev Chain.Sized (c : Chain) (B : Nat) : Prop := c.cv.length = B ∧ c.pv.length = B

theorem encBlock_sized (hc : c.Sized B) (hx : x.length = B) (hδ : δ.length = B) :
    (encBlock env m c x δ).1.length = B ∧ (encBlock env m c x δ).2.Sized B := by
  obtain ⟨h1, h2⟩ := hc
  cases m <;> simp [encBlock, Chain.Sized, h1, h2, hx, hδ]

theorem decBlock_sized (hc : c.Sized B) (hx : x.length = B) (hδ : δ.length = B) :
    (decBlock env m c x δ).1.length = B ∧ (decBlock env m c x δ).2.Sized B := by
  obtain ⟨h1, h2⟩ := hc
  cases m <;> simp [decBlock, Chain.Sized, h1, h2, hx, hδ]

/-! ## Runs -/

@[simp] theorem chainRun_nil (f : Chain → Block → Block → Block × Chain) (c : Chain) : chainRun f c [] = ([], c) := rfl

@[simp] theorem chainRun_cons (f : Chain → Block → Block → Block × Chain) (c : Chain) (x δ : Block)
    (rest : List (Block × Block)) :
    chainRun f c ((x, δ) :: rest) =
      ((f c x δ).1 :: (chainRun f (f c x δ).2 rest).1, (chainRun f (f c x δ).2 rest).2) := rfl

/-- A run of size-keeping steps keeps the sizes. -/
theorem chainRun_sized {f : Chain → Block → Block → Block × Chain}
    (hf : ∀ {c x δ}, c.Sized B → x.length = B → δ.length = B → (f c x δ).1.length = B ∧ (f c x δ).2.Sized B)
    {ins : List (Block × Block)} (hc : c.Sized B) (hi : ∀ q ∈ ins, q.1.length = B ∧ q.2.length = B) :
    (chainRun f c ins).1.length = ins.length ∧ (∀ y ∈ (chainRun f c ins).1, y.length = B) ∧
      (chainRun f c ins).2.Sized B := by
  induction ins generalizing c with
  | nil => simpa using hc
  | cons q ins ih =>
    obtain ⟨x, δ⟩ := q
    obtain ⟨hx, hδ⟩ := hi (x, δ) (by simp)
    obtain ⟨h1, h2⟩ := hf hc hx hδ
    obtain ⟨i1, i2, i3⟩ := ih h2 fun q hq => hi q (by simp [hq])
    refine ⟨by simp [i1], fun y hy => ?_, i3⟩
    rcases List.mem_cons.1 hy with rfl | hy
    · exact h1
    · exact i2 y hy

/-- The input pairs of a transform have `B` bytes each. -/
theorem State.blockInputs_sized (s : State) : ∀ q ∈ s.blockInputs, q.1.length = s.bsize ∧ q.2.length = s.bsize :=
  fun _ hq => ⟨Memory.length_of_mem_blocks (List.of_mem_zip hq).1, Memory.length_of_mem_blocks (List.of_mem_zip hq).2⟩

@[simp] theorem State.length_blockInputs (s : State) : s.blockInputs.length = s.blockCount := by
  simp [State.blockInputs]

/-! ## Steps -/

theorem State.transform_eq (run : Chain → List (Block × Block) → List Block × Chain) (s : State) :
    s.transform run = { s with
      buf := s.buf.writeN 0 (run s.chain s.blockInputs).1.flatten,
      cv := (run s.chain s.blockInputs).2.cv, pv := (run s.chain s.blockInputs).2.pv } := rfl

theorem State.drawDeltas_eq (env : Env) (s : State) :
    s.drawDeltas env = { s with
      dlt := s.dlt.writeN 0 (drawn env s.draws (s.blockCount * s.bsize)),
      dcnt := BitVec.ofNat 21 s.blockCount, draws := s.draws + s.blockCount * s.bsize } := rfl

theorem State.encStep_of_ne (h : m ≠ .rd) : s.encStep env m = s.transform (chainEnc env m) := by
  simp [State.encStep, h]

theorem State.encStep_rd : s.encStep env .rd = (s.drawDeltas env).transform (chainEnc env .rd) := rfl

/-- The output of a run over a sized state fits the data it replaces. -/
theorem State.chainEnc_sized (env : Env) (m : Mode) (h : s.BlocksSized) :
    (chainEnc env m s.chain s.blockInputs).1.length = s.blockCount ∧
      (∀ y ∈ (chainEnc env m s.chain s.blockInputs).1, y.length = s.bsize) ∧
      (chainEnc env m s.chain s.blockInputs).2.Sized s.bsize := by
  have := chainRun_sized (f := encBlock env m) encBlock_sized (c := s.chain) ⟨h.2.1, h.2.2⟩ s.blockInputs_sized
  rwa [State.length_blockInputs] at this

theorem State.chainDec_sized (env : Env) (m : Mode) (h : s.BlocksSized) :
    (chainDec env m s.chain s.blockInputs).1.length = s.blockCount ∧
      (∀ y ∈ (chainDec env m s.chain s.blockInputs).1, y.length = s.bsize) ∧
      (chainDec env m s.chain s.blockInputs).2.Sized s.bsize := by
  have := chainRun_sized (f := decBlock env m) decBlock_sized (c := s.chain) ⟨h.2.1, h.2.2⟩ s.blockInputs_sized
  rwa [State.length_blockInputs] at this

end Sys2Proof.Machine
end

