-- ==== Sys2Proof/Laws/Decode.lean ====
section
/-! SUPPORT. What a row of the opcode map says, and what a successful decoding comes from. -/

namespace Sys2Proof

variable {w : Word} {i : Instr}

/-- Every row compares all 32 bits with the word of its command (R91). -/
theorem opcodeTable_rows : ∀ r ∈ opcodeTable, r.mask = BitVec.allOnes 32 ∧ r.pattern = encode r.instr := by decide

/-- Every command has a row (R91). -/
theorem opcodeTable_complete (i : Instr) : ∃ r ∈ opcodeTable, r.instr = i := by cases i <;> decide

/-- A row matches a word exactly when it is the word of the row's command. -/
theorem row_matches {r : OpcodeRow} (h : r ∈ opcodeTable) : (w &&& r.mask == r.pattern) = true ↔ w = encode r.instr := by
  obtain ⟨h1, h2⟩ := opcodeTable_rows r h
  rw [h1, h2, BitVec.and_allOnes, beq_iff_eq]

/-- A word decodes to a command only through a row that matches it. -/
theorem row_of_decode (h : decode w = .ok i) : ∃ r ∈ opcodeTable, w = encode r.instr ∧ r.instr = i := by
  unfold decode at h
  cases hf : opcodeTable.find? (fun r => w &&& r.mask == r.pattern) with
  | none => rw [hf] at h; simp only at h; split at h <;> cases h
  | some r =>
    rw [hf] at h
    have hm := List.mem_of_find?_eq_some hf
    have hp := List.find?_some hf
    exact ⟨r, hm, (row_matches hm).1 hp, Except.ok.inj h⟩

end Sys2Proof
end

