-- ==== Sys2Proof/Laws/Padding.lean ====
section
/-! SUPPORT. Lengths of the padding, and what the padding and removal steps do to a state. -/

namespace Sys2Proof.Machine

variable {B L : Nat} {p : Scheme} {env : Env} {k : Nat} {s : State}

/-- A count-bearing pad has at least one byte (R111). -/
theorem padLen_pos (hB : 1 ≤ B) (hp : p.countBearing = true) : 1 ≤ padLen B p L := by
  have := Nat.mod_lt L (show 0 < B by omega)
  cases p <;> simp_all [padLen, Scheme.countBearing] <;> omega

theorem padLen_le : padLen B p L ≤ B := by
  cases p <;> simp only [padLen] <;> (try split) <;> omega

/-- As many bytes are appended as `padLen` says. -/
theorem length_padBytes (hB : 1 ≤ B) : (padBytes env k B p L).length = padLen B p L := by
  have h1 := padLen_pos (B := B) (L := L) (p := .ansi) hB rfl
  have h2 := padLen_pos (B := B) (L := L) (p := .iso) hB rfl
  cases p <;> simp [padBytes, padDraws, padLen] at * <;> omega

theorem padLen_of_not_counted (hp : p.countBearing = false) (hL : L % B = 0) : padLen B p L = 0 := by
  cases p <;> simp_all [padLen, Scheme.countBearing]

theorem length_stripZeros_le (l : List Byte) : (stripZeros l).length ≤ l.length := by
  induction l with
  | nil => simp [stripZeros]
  | cons x l ih =>
    unfold stripZeros
    split
    · split <;> simp
    · rename_i h; rw [h] at ih; simp at *; omega

@[simp] theorem State.length_data (s : State) : s.data.length = s.len.toNat := by simp [State.data]

/-! ## Only the end of the data is looked at (R127, R281) -/

/-- Cutting the zeros off twice is cutting them off once. -/
theorem stripZeros_idem (l : List Byte) : stripZeros (stripZeros l) = stripZeros l := by
  induction l with
  | nil => rfl
  | cons x l ih =>
    cases h : stripZeros l with
    | nil =>
      simp only [stripZeros, h]
      split
      · rfl
      · rename_i hx; simp only [stripZeros, if_neg hx]
    | cons y ys =>
      rw [h] at ih
      simp only [stripZeros] at ih ⊢
      rw [h]
      simp only [stripZeros, ih]

/-- Cutting the zeros off the second part first makes no difference to the whole. -/
theorem stripZeros_append (a b : List Byte) : stripZeros (a ++ stripZeros b) = stripZeros (a ++ b) := by
  induction a with
  | nil => exact stripZeros_idem b
  | cons x a ih => simp only [List.cons_append, stripZeros, ih]

theorem padCount_append (a : List Byte) {b : List Byte} (hb : b ≠ []) : padCount (a ++ b) = padCount b := by
  unfold padCount
  rw [List.getLastD_eq_getLast?, List.getLastD_eq_getLast?, List.getLast?_append_of_ne_nil _ hb]

theorem countInRange_append (a : List Byte) {b : List Byte} (hb : b ≠ []) (hB : B ≤ b.length) :
    countInRange B (a ++ b) = countInRange B b := by
  unfold countInRange
  rw [padCount_append a hb]
  by_cases h : padCount b ≤ B
  · have h1 : padCount b ≤ b.length := h.trans hB
    have h2 : padCount b ≤ (a ++ b).length := by rw [List.length_append]; omega
    simp only [h1, h2]
  · simp [h]

/-- Data of at least `B` bytes has a valid padding or not whatever comes before it. -/
theorem padValid_append (a : List Byte) {b : List Byte} (hb : b ≠ []) (hB : B ≤ b.length) :
    padValid B p (a ++ b) = padValid B p b := by
  have hr := countInRange_append a hb hB
  by_cases hc : countInRange B b = true
  · have hle : padCount b ≤ b.length := by
      simp only [countInRange, Bool.and_eq_true, decide_eq_true_eq] at hc; exact hc.2
    have hd : (a ++ b).drop ((a ++ b).length - padCount b) = b.drop (b.length - padCount b) := by
      rw [List.length_append, Nat.add_sub_assoc hle, List.drop_append]; simp
    cases p <;> simp only [padValid, hr, padCount_append a hb, hd]
  · cases p <;> simp [padValid, hr, hc]

/-! ## The padding step -/

theorem State.padStep_eq (env : Env) (p : Scheme) (s : State) :
    s.padStep env p = { s with
      buf := s.buf.writeN s.len.toNat (padBytes env s.draws s.bsize p s.len.toNat),
      len := BitVec.ofNat 21 (s.len.toNat + padLen s.bsize p s.len.toNat),
      draws := s.draws + padDraws s.bsize p s.len.toNat } := rfl

/-! ## The removal step -/

/-- What a removal can answer: a shorter or equal sequence, or `E_PAD` (R110). -/
theorem padRemove_cases (B : Nat) (p : Scheme) (strict : Bool) (l : List Byte) :
    (∃ d bad, padRemove B p strict l = .ok (d, bad) ∧ d.length ≤ l.length) ∨ padRemove B p strict l = .error .pad := by
  have := length_stripZeros_le l
  cases p <;> simp only [padRemove] <;> (try split_ifs) <;> simp_all

/-- Everything a removal step can do: `LEN` shrinks and `PADBAD` is written, or `E_PAD` is raised. -/
theorem State.removeStep_cases (opc : Byte) (p : Scheme) (s : State) :
    (∃ n bad, n ≤ s.len.toNat ∧ s.removeStep opc p = { s with len := BitVec.ofNat 21 n, padbad := bad }) ∨
    s.removeStep opc p = { s with err := some .pad, errcmd := opc } := by
  unfold State.removeStep
  rcases padRemove_cases s.bsize p s.strict s.data with ⟨d, bad, h, hl⟩ | h
  · exact .inl ⟨d.length, bad, by simpa using hl, by rw [h]; rfl⟩
  · exact .inr (by rw [h]; rfl)

end Sys2Proof.Machine
end

