-- ==== Sys2Proof/Laws/Effects.lean ====
section
/-! SUPPORT. The effects of the commands for a selected mode and scheme, and everything they can do. -/

namespace Sys2Proof.Machine

variable {s : State} {m : Mode} {p : Scheme} (env : Env)

theorem State.padEffect_of (hp : Scheme.ofCode s.pad = some p) : s.padEffect env = s.padStep env p := by
  simp [State.padEffect, State.selScheme, hp]

theorem State.unpadEffect_of (hp : Scheme.ofCode s.pad = some p) :
    s.unpadEffect = s.removeStep Instr.unpad.opcode p := by simp [State.unpadEffect, State.selScheme, hp]

theorem State.encEffect_of (hm : Mode.ofCode s.mode = some m) : s.encEffect env = s.encStep env m := by
  simp [State.encEffect, State.selMode, hm]

theorem State.decEffect_of (hm : Mode.ofCode s.mode = some m) : s.decEffect env = s.decStep env m := by
  simp [State.decEffect, State.selMode, hm]

theorem State.encfEffect_of (hm : Mode.ofCode s.mode = some m) (hp : Scheme.ofCode s.pad = some p) :
    s.encfEffect env = (s.padStep env p).encStep env m := by
  simp [State.encfEffect, State.selMode, State.selScheme, hm, hp]

theorem State.decfEffect_of (hm : Mode.ofCode s.mode = some m) (hp : Scheme.ofCode s.pad = some p) :
    s.decfEffect env = (s.decStep env m).removeStep Instr.decf.opcode p := by
  simp [State.decfEffect, State.selMode, State.selScheme, hm, hp]

/-- Everything the effect of `PAD` can be. -/
theorem State.padEffect_cases (s : State) :
    (∃ p, Scheme.ofCode s.pad = some p ∧ s.padEffect env = s.padStep env p) ∨ s.padEffect env = s := by
  cases hp : Scheme.ofCode s.pad with
  | none => exact .inr (by simp [State.padEffect, State.selScheme, hp])
  | some p => exact .inl ⟨p, rfl, s.padEffect_of env hp⟩

/-- Everything the effect of `UNPAD` can be. -/
theorem State.unpadEffect_cases (s : State) :
    (∃ p, Scheme.ofCode s.pad = some p ∧ s.unpadEffect = s.removeStep Instr.unpad.opcode p) ∨ s.unpadEffect = s := by
  cases hp : Scheme.ofCode s.pad with
  | none => exact .inr (by simp [State.unpadEffect, State.selScheme, hp])
  | some p => exact .inl ⟨p, rfl, State.unpadEffect_of hp⟩

/-- Everything the effect of `ENC` can be. -/
theorem State.encEffect_cases (s : State) :
    (∃ m, Mode.ofCode s.mode = some m ∧ s.encEffect env = s.encStep env m) ∨ s.encEffect env = s := by
  cases hm : Mode.ofCode s.mode with
  | none => exact .inr (by simp [State.encEffect, State.selMode, hm])
  | some m => exact .inl ⟨m, rfl, s.encEffect_of env hm⟩

/-- Everything the effect of `DEC` can be. -/
theorem State.decEffect_cases (s : State) :
    (∃ m, Mode.ofCode s.mode = some m ∧ s.decEffect env = s.decStep env m) ∨ s.decEffect env = s := by
  cases hm : Mode.ofCode s.mode with
  | none => exact .inr (by simp [State.decEffect, State.selMode, hm])
  | some m => exact .inl ⟨m, rfl, s.decEffect_of env hm⟩

/-- Everything the effect of `ENCF` can be. -/
theorem State.encfEffect_cases (s : State) :
    (∃ m p, Mode.ofCode s.mode = some m ∧ Scheme.ofCode s.pad = some p ∧
      s.encfEffect env = (s.padStep env p).encStep env m) ∨ s.encfEffect env = s := by
  cases hm : Mode.ofCode s.mode with
  | none => exact .inr (by simp [State.encfEffect, State.selMode, hm])
  | some m =>
    cases hp : Scheme.ofCode s.pad with
    | none => exact .inr (by simp [State.encfEffect, State.selMode, State.selScheme, hm, hp])
    | some p => exact .inl ⟨m, p, rfl, rfl, s.encfEffect_of env hm hp⟩

/-- Everything the effect of `DECF` can be. -/
theorem State.decfEffect_cases (s : State) :
    (∃ m p, Mode.ofCode s.mode = some m ∧ Scheme.ofCode s.pad = some p ∧
      s.decfEffect env = (s.decStep env m).removeStep Instr.decf.opcode p) ∨ s.decfEffect env = s := by
  cases hm : Mode.ofCode s.mode with
  | none => exact .inr (by simp [State.decfEffect, State.selMode, hm])
  | some m =>
    cases hp : Scheme.ofCode s.pad with
    | none => exact .inr (by simp [State.decfEffect, State.selMode, State.selScheme, hm, hp])
    | some p => exact .inl ⟨m, p, rfl, rfl, s.decfEffect_of env hm hp⟩

/-- No check of `PAD` fails when what the spec asks for holds (R130). -/
theorem State.padChecks_pass (hp : Scheme.ofCode s.pad = some p) (hw : p.countBearing = true → s.bsize ≠ 256)
    (hl : s.len.toNat ≤ s.capr) (ha : p = .none → s.len.toNat % s.bsize = 0)
    (ho : s.len.toNat + padLen s.bsize p s.len.toNat ≤ s.capr) : firstFailing s.padChecks = none := by
  have h1 := Nat.not_lt.2 hl
  have h2 := Nat.not_lt.2 ho
  clear hl ho
  cases p <;>
    simp_all [-Nat.not_lt, -not_lt, State.padChecks, State.padReserved, State.padTooWide, State.padCounts, State.lenOver, State.unaligned,
      State.noneUnaligned, State.padOverflows, State.selScheme, Scheme.countBearing]

/-- No precondition of `UNPAD` fails when what the spec asks for holds (R131). -/
theorem State.unpadChecks_pass (hp : Scheme.ofCode s.pad = some p)
    (hw : p.countBearing = true → s.bsize ≠ 256 ∧ s.len ≠ 0)
    (hl : s.len.toNat ≤ s.capr) (ha : s.len.toNat % s.bsize = 0) : firstFailing s.unpadChecks = none := by
  have hz : s.len.toNat = 0 ↔ s.len = 0 := by simp [BitVec.toNat_eq]
  cases p <;>
    simp_all [State.unpadChecks, State.padReserved, State.padTooWide, State.padCounts, State.lenOver, State.unaligned,
      State.emptyCounted, State.selScheme, Scheme.countBearing]

/-- No check of `ENC` fails when what the spec asks for holds (R167). -/
theorem State.encChecks_pass (hm : Mode.ofCode s.mode = some m) (hl : s.len.toNat ≤ s.capr)
    (ha : s.len.toNat % s.bsize = 0) (hc : m.usesIv = true → s.chv = true) : firstFailing s.encChecks = none := by
  cases m <;>
    simp_all [State.encChecks, State.modeReserved, State.lenOver, State.unaligned, State.noChain, State.selMode,
      Mode.usesIv]

/-- No precondition of `DEC` fails when what the spec asks for holds (R169). -/
theorem State.decChecks_pass (hm : Mode.ofCode s.mode = some m) (hl : s.len.toNat ≤ s.capr)
    (ha : s.len.toNat % s.bsize = 0) (hc : m.usesIv = true → s.chv = true)
    (hd : m = .rd → s.dcnt.toNat = s.len.toNat / s.bsize) : firstFailing s.decChecks = none := by
  cases m <;>
    simp_all [State.decChecks, State.modeReserved, State.lenOver, State.unaligned, State.noChain, State.deltasMissing,
      State.selMode, Mode.usesIv]

/-- No check of `ENCF` fails when what the spec asks for holds (R201). -/
theorem State.encfChecks_pass (hm : Mode.ofCode s.mode = some m) (hp : Scheme.ofCode s.pad = some p)
    (hw : p.countBearing = true → s.bsize ≠ 256) (hl : s.len.toNat ≤ s.capr)
    (ha : p = .none → s.len.toNat % s.bsize = 0)
    (ho : s.len.toNat + padLen s.bsize p s.len.toNat ≤ s.capr) (hc : m.usesIv = true → s.chv = true) :
    firstFailing s.encfChecks = none := by
  have h1 := State.padChecks_pass hp hw hl ha ho
  simp only [firstFailing_eq_none, State.padChecks, List.mem_cons, List.not_mem_nil, or_false, forall_eq_or_imp,
    forall_eq] at h1
  have h2 : s.modeReserved = false := by simp [State.modeReserved, State.selMode, hm]
  have h3 : s.noChain = false := by cases m <;> simp_all [State.noChain, State.selMode, Mode.usesIv]
  simp [State.encfChecks, h1, h2, h3]

/-- No precondition of `DECF` fails when what the spec asks for holds (R202). -/
theorem State.decfChecks_pass (hm : Mode.ofCode s.mode = some m) (hp : Scheme.ofCode s.pad = some p)
    (hw : p.countBearing = true → s.bsize ≠ 256 ∧ s.len ≠ 0) (hl : s.len.toNat ≤ s.capr)
    (ha : s.len.toNat % s.bsize = 0) (hc : m.usesIv = true → s.chv = true)
    (hd : m = .rd → s.dcnt.toNat = s.len.toNat / s.bsize) : firstFailing s.decfChecks = none := by
  have h1 := State.unpadChecks_pass hp hw hl ha
  have h2 := State.decChecks_pass hm hl ha hc hd
  simp only [firstFailing_eq_none, State.unpadChecks, State.decChecks, List.mem_cons, List.not_mem_nil, or_false,
    forall_eq_or_imp, forall_eq] at h1 h2
  simp [State.decfChecks, h1, h2]

end Sys2Proof.Machine
end

