-- ==== Sys2Proof/Laws/Flags.lean ====
section
/-! SUPPORT. The bits of the register words, and the words after a reset of the registers. -/

namespace Sys2Proof.Machine

/-- The four register words are 0 after a reset of the registers (R40, R222). -/
theorem State.softReset_words (s : State) :
    s.softReset.ctrlWord = 0 ∧ s.softReset.lenWord = 0 ∧ s.softReset.dcntWord = 0 ∧ s.softReset.statusWord = 0 := by
  simp [State.ctrlWord, State.lenWord, State.dcntWord, State.statusWord, State.errField]

/-- Bit `n` of `CTRL` (R28). -/
theorem State.getLsbD_ctrlWord (s : State) (n : Nat) :
    s.ctrlWord.getLsbD n =
      if n < 3 then s.mode.getLsbD n
      else if n < 4 then false
      else if n < 7 then s.pad.getLsbD (n - 4)
      else if n = 8 then s.strict
      else false := by
  rcases Nat.lt_or_ge n 32 with h | h
  · simp only [State.ctrlWord, BitVec.getLsbD_append]
    interval_cases n <;> simp
  · rw [BitVec.getLsbD_of_ge _ _ h]
    split_ifs <;> first | rfl | omega

theorem Err.code_ne_zero (e : Err) : e.code ≠ 0 := by cases e <;> decide

/-- The field `STATUS.ERR` is 0 exactly when no error is pending (R231). -/
theorem State.errField_eq_zero {s : State} : s.errField = 0 ↔ s.err = none := by
  unfold State.errField
  cases s.err with
  | none => exact iff_of_true rfl rfl
  | some e => exact iff_of_false e.code_ne_zero (Option.some_ne_none e)

/-- Bit `n` of `STATUS` (R32). -/
theorem State.getLsbD_statusWord (s : State) (n : Nat) :
    s.statusWord.getLsbD n =
      if n < 4 then s.errField.getLsbD n
      else if n = 4 then s.ivv
      else if n = 5 then s.chv
      else if n = 6 then s.padbad
      else if n = 7 then false
      else if n < 16 then s.errcmd.getLsbD (n - 8)
      else false := by
  rcases Nat.lt_or_ge n 32 with h | h
  · simp only [State.statusWord, BitVec.getLsbD_append]
    interval_cases n <;> simp
  · rw [BitVec.getLsbD_of_ge _ _ h]
    split_ifs <;> first | rfl | omega

end Sys2Proof.Machine
end

