-- ==== Sys2Proof/Laws/Loading.lean ====
section
/-! SUPPORT. What the pseudo-lines `load` and `loaddlt` leave in a state (R97). -/

namespace Sys2Proof.Machine

variable {s : State} {d : List Byte}

theorem State.loaded_eq (s : State) (d : List Byte) :
    s.loaded d = { s with buf := s.buf.writeN 0 d, len := BitVec.ofNat 21 d.length } := rfl

theorem State.loadedDeltas_eq (s : State) (d : List Byte) :
    s.loadedDeltas d = { s with dlt := s.dlt.writeN 0 d, dcnt := BitVec.ofNat 21 (d.length / s.bsize) } := rfl

/-- A length within `CAP` fits the 21 bits of `LEN` and `DCNT` (R7, R30, R33). -/
theorem State.LegalInstance.toNat_ofNat (h : s.LegalInstance) {n : Nat} (hn : n ≤ s.capr) :
    (BitVec.ofNat 21 n).toNat = n := by
  have hcap : s.capr ≤ 2 ^ 20 := h.2.2.2.2
  rw [BitVec.toNat_ofNat, Nat.mod_eq_of_lt (by omega)]

theorem State.loaded_len (hI : s.Inv) (hd : d.length ≤ s.capr) : (s.loaded d).len.toNat = d.length :=
  hI.1.toNat_ofNat hd

theorem State.loaded_data (hI : s.Inv) (hd : d.length ≤ s.capr) : (s.loaded d).data = d := by
  rw [State.data, State.loaded_len hI hd]
  exact Memory.readN_writeN hI.2.2.1.1 0 d

theorem State.loaded_inv (hI : s.Inv) (hd : d.length ≤ s.capr) : (s.loaded d).Inv :=
  ⟨hI.1, hI.2.1,
    ⟨Memory.wf_writeN hI.2.2.1.1 _ _, Memory.below_writeN hI.2.2.1.2.1 (by rwa [Nat.zero_add]), hI.2.2.1.2.2⟩, hI.2.2.2⟩

theorem State.loadedDeltas_dcnt (hI : s.Inv) (hd : d.length ≤ s.capr) :
    (s.loadedDeltas d).dcnt.toNat = d.length / s.bsize :=
  hI.1.toNat_ofNat ((Nat.div_le_self _ _).trans hd)

theorem State.loadedDeltas_read (hI : s.Inv) : (s.loadedDeltas d).dlt.readN 0 d.length = d :=
  Memory.readN_writeN hI.2.2.1.2.2.1 0 d

theorem State.loadedDeltas_inv (hI : s.Inv) (hd : d.length ≤ s.capr) : (s.loadedDeltas d).Inv :=
  ⟨hI.1, hI.2.1, ⟨hI.2.2.1.1, hI.2.2.1.2.1, Memory.wf_writeN hI.2.2.1.2.2.1 _ _,
    Memory.below_writeN hI.2.2.1.2.2.2 (by rwa [Nat.zero_add])⟩, hI.2.2.2⟩

end Sys2Proof.Machine
end

