-- ==== Sys2Proof/Laws/PerInstr.lean ====
section
/-! SUPPORT. Statements for all commands, one lemma per constructor of `Instr`. -/

namespace Sys2Proof.Laws.CommandWord

/-- R90: the word of a well-formed command has its opcode in bits 7:0 and zero in bits 31:8. -/
def Statement (i : Instr) : Prop :=
  i.wellFormed = true ∧ opcField (encode i) = i.opcode ∧ zeroField (encode i) = 0

theorem nop : Statement .nop := ⟨rfl, rfl, rfl⟩
theorem clrerr : Statement .clrerr := ⟨rfl, rfl, rfl⟩
theorem srst : Statement .srst := ⟨rfl, rfl, rfl⟩
theorem ldiv : Statement .ldiv := ⟨rfl, rfl, rfl⟩
theorem start : Statement .start := ⟨rfl, rfl, rfl⟩
theorem pad : Statement .pad := ⟨rfl, rfl, rfl⟩
theorem unpad : Statement .unpad := ⟨rfl, rfl, rfl⟩
theorem enc : Statement .enc := ⟨rfl, rfl, rfl⟩
theorem dec : Statement .dec := ⟨rfl, rfl, rfl⟩
theorem encf : Statement .encf := ⟨rfl, rfl, rfl⟩
theorem decf : Statement .decf := ⟨rfl, rfl, rfl⟩

end Sys2Proof.Laws.CommandWord
end

