-- ==== Sys2Proof/Tests/Slice0.lean ====
section
/-! SUPPORT. The model's own tests. Expected values come from spec/95_test_vectors.md and from the tables of the rules named;
the cipher of the vectors is the spec's TOY (95_test_vectors section 2). Then a witness for the hypotheses of every
statement of Certificates/Slice0/Obligations.lean. -/

namespace Sys2Proof.Tests

set_option Elab.async false

open Sys2Proof.Machine

/-! ## Helpers -/

/-- TOY of 95_test_vectors section 2, with the draw stream `d` (then 00). -/
def toyEnv (d : List Byte) : Env :=
  { encByte := fun x j => x.getD ((j + 1) % x.length) 0 ^^^ BitVec.ofNat 8 (0x5A + j)
    decByte := fun y k =>
      y.getD ((k + y.length - 1) % y.length) 0 ^^^ BitVec.ofNat 8 (0x5A + (k + y.length - 1) % y.length)
    draw := fun k => d.getD k 0 }

/-- The IV of the vectors, `IV*`. -/
def ivs : Block := [0x12, 0x34, 0x12, 0x78, 0x89, 0xFF, 0x45, 0x32]

/-- The bytes `a`, `a+1`, and so on, `n` of them. -/
def upFrom (a n : Nat) : List Byte := (List.range n).map fun k => BitVec.ofNat 8 (a + k)

/-- A small state: `B`, `CAP`, `CTRL`, and the data at `BUF[0..LEN)`. -/
def stOf (B cap ctrl : Nat) (d : List Byte) : State :=
  let p : Params := ⟨B, cap⟩
  ((((State.resetOf p (Contents.zero p)).writeCtrl (BitVec.ofNat 32 ctrl)).setBuf (Memory.writeN [] 0 d)).setLen d.length)

/-- The instance of the vectors: `B = 8`, `CAP = 64`. -/
def st (ctrl : Nat) (d : List Byte) : State := stOf 8 64 ctrl d

/-- `st` after `setiv IV*; cmd START`. -/
def ready (ctrl : Nat) (d : List Byte) : State := { st ctrl d with iv := ivs, cv := ivs, pv := ivs, ivv := true, chv := true }

/-- What a next state shows: `f` of it; nothing for a fault or a refusal. -/
def shown {α : Type} (o : Host.Outcome State Fault Refusal) (f : State → α) : Option α :=
  match o with
  | .next t => some (f t)
  | .fault _ => none
  | .refused _ => none

/-! ## Decoding, bit by bit (R90, R91; 95_test_vectors section 7.1) -/

theorem test_decode_system :
    decode 0b00000000_00000000_00000000_00000000#32 = .ok .nop ∧
    decode 0b00000000_00000000_00000000_00000001#32 = .ok .clrerr ∧
    decode 0b00000000_00000000_00000000_00000010#32 = .ok .srst := by decide

theorem test_decode_iv :
    decode 0b00000000_00000000_00000000_00010000#32 = .ok .ldiv ∧
    decode 0b00000000_00000000_00000000_00010001#32 = .ok .start := by decide

theorem test_decode_padding :
    decode 0b00000000_00000000_00000000_00100000#32 = .ok .pad ∧
    decode 0b00000000_00000000_00000000_00100001#32 = .ok .unpad := by decide

theorem test_decode_chaining :
    decode 0b00000000_00000000_00000000_00110000#32 = .ok .enc ∧
    decode 0b00000000_00000000_00000000_00110001#32 = .ok .dec ∧
    decode 0b00000000_00000000_00000000_00110010#32 = .ok .encf ∧
    decode 0b00000000_00000000_00000000_00110011#32 = .ok .decf := by decide

theorem test_decode_illegal :
    decode 0x00000130#32 = .error .zeroField ∧ decode 0x00000100#32 = .error .zeroField ∧
    decode 0xFFFFFFFF#32 = .error .zeroField ∧ decode 0x80000000#32 = .error .zeroField ∧
    decode 0x00000003#32 = .error (.opcode 0x03) ∧ decode 0x00000034#32 = .error (.opcode 0x34) := by decide

theorem test_decode_table_word :
    decodeTableWord 32 0x33 = some .decf ∧ decodeTableWord 8 0x20 = some .pad ∧ decodeTableWord 32 0x34 = none ∧
    decodeTableWord 8 0x130 = none := by decide

/-! ## Well-formedness: what each check refuses (R6, R7, R66, R92) -/

theorem smoke_params :
    Params.Legal ⟨8, 64⟩ ∧ Params.Legal ⟨1, 2⟩ ∧ Params.Legal ⟨256, 2 ^ 20⟩ ∧
    ¬ Params.Legal ⟨0, 64⟩ ∧ ¬ Params.Legal ⟨257, 514⟩ ∧ ¬ Params.Legal ⟨8, 60⟩ ∧ ¬ Params.Legal ⟨8, 8⟩ ∧
    ¬ Params.Legal ⟨8, 2 ^ 20 + 8⟩ := by decide

theorem smoke_host_action :
    HostAction.legal (.regRead 0xFC) = true ∧ HostAction.legal (.regRead 0x02) = false ∧
    HostAction.legal (.regWrite 0x100 0) = false ∧ HostAction.legal (.winRead .buf 0xFFFFF) = true := by decide

theorem smoke_wellFormed : ∀ i : Instr, i.wellFormed = true := by intro i; cases i <;> rfl

/-! ## System commands (95_test_vectors sections 7.1, 7.3; examples of R221, R222) -/

theorem test_nop : exec .nop (st 0x31 [1]) = .next (st 0x31 [1]) := rfl

theorem test_clrerr :
    let s := { ready 0x31 [1, 2, 3] with err := some .align, errcmd := 0x31 }
    s.statusWord = 0x00003134 ∧ shown (exec .clrerr s) State.statusWord = some 0x00000030 := by decide +kernel

theorem test_srst :
    shown (exec .srst (ready 0x131 (upFrom 0 40))) (fun t => (t.ctrlWord, t.lenWord, t.statusWord, t.iv)) =
      some (0, 0, 0, ivs) := by decide +kernel

theorem test_illegal_words :
    shown (perform (.regWrite 0x08 0x00000130) (st 0 [])) State.statusWord = some 0x00003001 ∧
    shown (perform (.regWrite 0x08 0x00000100) (st 0 [])) State.statusWord = some 0x00000001 ∧
    shown (perform (.regWrite 0x08 0x00000003) (st 0 [])) State.statusWord = some 0x00000301 ∧
    shown (perform (.regWrite 0x08 0xFFFFFFFF) (st 0 [])) State.statusWord = some 0x0000FF01 := by decide +kernel

theorem test_dropped :
    let s := { st 0x30 [1, 2, 3, 4, 5] with err := some .align, errcmd := 0x21 }
    exec .pad s = .next s ∧ perform (.regWrite 0x08 0x000000FF) s = .next s := ⟨rfl, rfl⟩

/-! ## IV and chain (95_test_vectors section 5.4) -/

theorem test_ldiv :
    shown (exec .ldiv (st 0x01 ivs)) (fun t => (t.iv, t.statusWord)) = some (ivs, 0x00000010) ∧
    shown (exec .ldiv (ready 0x01 ivs)) State.statusWord = some 0x00000010 := by decide +kernel

theorem test_ldiv_errors :
    shown (exec .ldiv (stOf 8 16 0 (upFrom 0 17))) State.statusWord = some 0x00001003 ∧
    shown (exec .ldiv (stOf 8 16 0 (upFrom 0 16))) State.statusWord = some 0x00001005 ∧
    shown (exec .ldiv (stOf 8 16 0 [])) State.statusWord = some 0x00001005 := by decide +kernel

theorem test_start :
    shown (exec .start { st 0x01 ivs with iv := ivs, ivv := true }) (fun t => (t.cv, t.pv, t.statusWord)) =
      some (ivs, ivs, 0x00000030) ∧
    shown (exec .start (st 0x01 ivs)) State.statusWord = some 0x00001106 := by decide +kernel

theorem test_ctrl_write :
    ((ready 0x01 []).writeCtrl 0x131).statusWord = 0x00000030 ∧ ((ready 0x31 []).writeCtrl 0x35).statusWord = 0x00000010 ∧
    ((st 0 []).writeCtrl 0xFFFFFFFF).ctrlWord = 0x00000177 := by decide +kernel

/-! ## Padding (95_test_vectors sections 3 and 4) -/

/-- `PAD` with the draw stream of section 3.1. -/
def padRow (ctrl : Nat) (d : List Byte) : Word × List Byte :=
  let t := (st ctrl d).padCommand (toyEnv [0xA1, 0xB2, 0xC3, 0xD4, 0xE5, 0xF6, 0x07])
  (t.statusWord, t.data)

theorem test_pad :
    padRow 0x10 [1, 2, 3, 4, 5] = (0, [1, 2, 3, 4, 5, 0, 0, 0]) ∧ padRow 0x10 (upFrom 1 8) = (0, upFrom 1 8) ∧
    padRow 0x20 [] = (0, [0, 0, 0, 0, 0, 0, 0, 8]) ∧ padRow 0x20 (upFrom 1 7) = (0, upFrom 1 7 ++ [1]) ∧
    padRow 0x30 [1, 2, 3, 4, 5] = (0, [1, 2, 3, 4, 5, 3, 3, 3]) ∧
    padRow 0x30 (upFrom 1 8) = (0, upFrom 1 8 ++ [8, 8, 8, 8, 8, 8, 8, 8]) ∧
    padRow 0x40 [] = (0, [0xA1, 0xB2, 0xC3, 0xD4, 0xE5, 0xF6, 0x07, 0x08]) ∧
    padRow 0x40 [1, 2, 3, 4, 5] = (0, [1, 2, 3, 4, 5, 0xA1, 0xB2, 3]) ∧
    padRow 0x00 [0x41] = (0x00002004, [0x41]) := by decide +kernel

theorem test_pad_limits :
    ((stOf 8 16 0x30 (upFrom 0 16)).padCommand (toyEnv [])).statusWord = 0x00002008 ∧
    ((stOf 8 16 0x30 (upFrom 0 15)).padCommand (toyEnv [])).data = upFrom 0 15 ++ [1] ∧
    ((stOf 8 16 0x30 (upFrom 0 17)).padCommand (toyEnv [])).statusWord = 0x00002003 ∧
    ((stOf 8 16 0x50 (upFrom 0 17)).padCommand (toyEnv [])).statusWord = 0x00002002 ∧
    ((stOf 256 512 0x30 [0x33]).padCommand (toyEnv [])).statusWord = 0x00002002 ∧
    ((stOf 1 2 0x20 [0x55]).padCommand (toyEnv [])).data = [0x55, 1] := by decide +kernel

/-- `UNPAD` under both policies: `LEN` and `STATUS` for `STRICT = 0`, then for `STRICT = 1`. -/
def unpadRow (ctrl : Nat) (d : List Byte) : List Nat :=
  let t := (st ctrl d).unpadCommand
  let u := (st (ctrl + 0x100) d).unpadCommand
  [t.len.toNat, t.statusWord.toNat, u.len.toNat, u.statusWord.toNat]

theorem test_unpad :
    unpadRow 0x30 [1, 2, 3, 4, 5, 3, 3, 3] = [5, 0, 5, 0] ∧ unpadRow 0x30 [1, 2, 3, 4, 5, 3, 2, 3] = [8, 0x40, 8, 0x210A] ∧
    unpadRow 0x30 [8, 8, 8, 8, 8, 8, 8, 8] = [0, 0, 0, 0] ∧ unpadRow 0x30 (upFrom 1 7 ++ [9]) = [8, 0x40, 8, 0x210A] ∧
    unpadRow 0x20 [1, 2, 3, 4, 5, 0, 0, 3] = [5, 0, 5, 0] ∧ unpadRow 0x20 [0, 0, 0, 1, 0, 0, 0, 8] = [8, 0x40, 8, 0x210A] ∧
    unpadRow 0x40 (upFrom 1 8) = [0, 0, 0, 0] ∧ unpadRow 0x10 (1 :: List.replicate 15 0) = [1, 0, 1, 0] := by
  decide +kernel

theorem test_unpad_limits :
    unpadRow 0x30 [] = [0, 0x2109, 0, 0x2109] ∧ unpadRow 0x10 [1, 2, 3, 4, 5] = [5, 0x2104, 5, 0x2104] ∧
    unpadRow 0x70 [1, 2, 3] = [3, 0x2102, 3, 0x2102] ∧ unpadRow 0x30 (upFrom 1 7 ++ [0]) = [8, 0x40, 8, 0x210A] ∧
    unpadRow 0x00 (upFrom 1 8) = [8, 0, 8, 0] ∧ unpadRow 0x10 [] = [0, 0, 0, 0] := by decide +kernel

/-! ## Chaining (95_test_vectors sections 2, 5.2, 5.3) -/

theorem test_toy :
    (toyEnv []).E ivs = [0x6E, 0x49, 0x24, 0xD4, 0xA1, 0x1A, 0x52, 0x73] ∧
    (toyEnv []).D ivs = [0x53, 0x48, 0x6F, 0x4E, 0x25, 0xD7, 0xA0, 0x25] := by decide +kernel

theorem test_inc :
    incBlock [0, 0, 0, 0, 0, 0, 1, 0xFF] = [0, 0, 0, 0, 0, 0, 2, 0] ∧
    incBlock [0, 0xFF, 0xFF, 0xFF, 0xFF, 0xFF, 0xFF, 0xFF] = [1, 0, 0, 0, 0, 0, 0, 0] ∧
    incBlock (List.replicate 8 0xFF) = List.replicate 8 0 ∧ incBlock [0x7F] = [0x80] ∧
    incBytes [0, 0, 0, 0, 0, 0, 1, 0xFF] = [0, 0, 0, 0, 0, 0, 2, 0] := by decide +kernel

/-- The two plaintext blocks of section 5.2. -/
def msg : List Byte :=
  [0x00, 0x11, 0x22, 0x33, 0x44, 0x55, 0x66, 0x77, 0x88, 0x99, 0xAA, 0xBB, 0xCC, 0xDD, 0xEE, 0xFF]

/-- The program of section 5.2: `BUF`, `CV` and `PV` after `ENC` in the mode of code `m`. -/
def encRow (m : Nat) : List Byte × Block × Block :=
  let t := (ready m msg).encCommand (toyEnv (upFrom 0xD0 16))
  (t.data, t.cv, t.pv)

theorem test_enc :
    encRow 0 = ([0x4B, 0x79, 0x6F, 0x19, 0x0B, 0x39, 0x17, 0x61, 0xC3, 0xF1, 0xE7, 0x91, 0x83, 0xB1, 0x9F, 0xE9], ivs, ivs) ∧
    encRow 1 = ([0x7F, 0x6B, 0x17, 0x90, 0xF4, 0x7C, 0x25, 0x73, 0xA8, 0xE6, 0x77, 0x65, 0xFF, 0x94, 0xEC, 0x96],
      [0xA8, 0xE6, 0x77, 0x65, 0xFF, 0x94, 0xEC, 0x96], ivs) ∧
    encRow 2 = ([0x4B, 0x79, 0x6F, 0x19, 0x0B, 0x39, 0x17, 0x61, 0xAB, 0xBC, 0xCD, 0xDE, 0xEF, 0xC0, 0x89, 0xA2],
      [0xAB, 0xBC, 0xCD, 0xDE, 0xEF, 0xC0, 0x89, 0xA2], [0x88, 0x99, 0xAA, 0xBB, 0xCC, 0xDD, 0xEE, 0xFF]) ∧
    encRow 3 = ([0x6E, 0x58, 0x06, 0xE7, 0xE5, 0x4F, 0x34, 0x04, 0x8A, 0xC4, 0x11, 0x03, 0xDD, 0xB6, 0x8A, 0xF0],
      [0x8A, 0xC4, 0x11, 0x03, 0xDD, 0xB6, 0x8A, 0xF0], ivs) ∧
    encRow 4 = ([0x6E, 0x58, 0x06, 0xE7, 0xE5, 0x4F, 0x34, 0x04, 0x9B, 0xE6, 0x22, 0x47, 0x88, 0xD0, 0xFD, 0xF0],
      [0x13, 0x7F, 0x88, 0xFC, 0x44, 0x0D, 0x13, 0x0F], ivs) ∧
    encRow 5 = ([0x6E, 0x58, 0x06, 0xE7, 0xE5, 0x4F, 0x34, 0x04, 0xE6, 0xD0, 0x8E, 0x6F, 0x6D, 0xC7, 0xBD, 0x8C],
      [0x12, 0x34, 0x12, 0x78, 0x89, 0xFF, 0x45, 0x34], ivs) ∧
    encRow 6 = ([0x9A, 0xAB, 0xBC, 0xCD, 0xDE, 0xEF, 0xC0, 0xB1, 0x1A, 0x2B, 0x3C, 0x4D, 0x5E, 0x6F, 0x40, 0x31],
      ivs, ivs) := by decide +kernel

theorem test_enc_deltas :
    let t := (ready 6 msg).encCommand (toyEnv (upFrom 0xD0 16))
    t.dlt.readN 0 16 = upFrom 0xD0 16 ∧ t.dcnt = 2 ∧ t.draws = 16 := by decide +kernel

/-- `START; DEC` on what `ENC` gives in the mode of code `m` (section 5.2). -/
def decRow (m : Nat) : List Byte × Bool :=
  let t := (ready m msg).encCommand (toyEnv (upFrom 0xD0 16))
  let u := t.startCommand.decCommand (toyEnv [])
  (u.data, decide (u.cv = t.cv ∧ u.pv = t.pv))

theorem test_dec :
    decRow 0 = (msg, true) ∧ decRow 1 = (msg, true) ∧ decRow 2 = (msg, true) ∧ decRow 3 = (msg, true) ∧
    decRow 4 = (msg, true) ∧ decRow 5 = (msg, true) ∧ decRow 6 = (msg, true) := by decide +kernel

theorem test_dec_delta :
    (({ ready 0x06 [] with dcnt := 1 }).decCommand (toyEnv [])).statusWord = 0x0000313B := by decide +kernel

/-! ## Composites (95_test_vectors sections 6.1, 6.2, 6.4; P5) -/

/-- `ENCF` under ECB, then `DECF` on the result (section 6.1). -/
def compRow (ctrl : Nat) (d : List Byte) : List Byte × List Byte × Word :=
  let t := (st ctrl d).encfCommand (toyEnv [0xA1, 0xB2, 0xC3, 0xD4, 0xE5, 0xF6, 0x07])
  let u := t.decfCommand (toyEnv [])
  (t.data, u.data, u.statusWord)

theorem test_encf_decf :
    compRow 0x00 [1, 2, 3, 4, 5] = ([1, 2, 3, 4, 5], [1, 2, 3, 4, 5], 0x00003204) ∧
    compRow 0x10 [] = ([], [], 0) ∧
    compRow 0x20 [] = ([0x5A, 0x5B, 0x5C, 0x5D, 0x5E, 0x5F, 0x68, 0x61], [], 0) ∧
    compRow 0x30 [1, 2, 3, 4, 5] = ([0x58, 0x58, 0x58, 0x58, 0x5D, 0x5C, 0x63, 0x60], [1, 2, 3, 4, 5], 0) ∧
    compRow 0x40 [] = ([0xE8, 0x98, 0x88, 0xB8, 0xA8, 0x58, 0x68, 0xC0], [], 0) ∧
    compRow 0x40 (upFrom 1 8) =
      ([0x58, 0x58, 0x58, 0x58, 0x58, 0x58, 0x68, 0x60, 0xE8, 0x98, 0x88, 0xB8, 0xA8, 0x58, 0x68, 0xC0],
        upFrom 1 8, 0) := by decide +kernel

theorem test_encf_draw_order :
    let t := (st 0x46 [1, 2, 3, 4, 5]).encfCommand
      (toyEnv [0xA1, 0xB2, 0xD0, 0xD1, 0xD2, 0xD3, 0xD4, 0xD5, 0xD6, 0xD7])
    t.data = [0x89, 0x8A, 0x8B, 0x8C, 0x2A, 0x3B, 0xB4, 0xB0] ∧ t.dcnt = 1 ∧ t.dlt.readN 0 8 = upFrom 0xD0 8 := by
  decide +kernel

/-- The ciphertext of section 6.2, whose padding is invalid. -/
def badCipher : List Byte := [0x6C, 0x4A, 0x20, 0xD1, 0xA2, 0x18, 0x51, 0x72]

theorem test_decf_invalid_padding :
    let t := (ready 0x31 badCipher).decfCommand (toyEnv [])
    let u := (ready 0x131 badCipher).decfCommand (toyEnv [])
    (t.data, t.statusWord, t.cv) = ([1, 2, 3, 4, 5, 3, 2, 3], 0x00000070, badCipher) ∧
    (u.data, u.statusWord, u.cv) = ([1, 2, 3, 4, 5, 3, 2, 3], 0x0000333A, badCipher) := by decide +kernel

/-- `STATUS` after a command in the setting of section 7.2: `CAP = 16`, `LEN` and `DCNT` written by the host. -/
def prioRow (ctrl len dcnt : Nat) (i : Instr) : Option Word :=
  shown (exec i (((stOf 8 16 ctrl []).setLen len).setDcnt dcnt)) State.statusWord

theorem test_priority :
    prioRow 0x77 17 0 .encf = some 0x00003202 ∧ prioRow 0x31 17 0 .encf = some 0x00003203 ∧
    prioRow 0x31 16 0 .encf = some 0x00003208 ∧ prioRow 0x31 5 0 .encf = some 0x00003207 ∧
    prioRow 0x01 5 0 .encf = some 0x00003204 ∧ prioRow 0x31 5 0 .decf = some 0x00003304 ∧
    prioRow 0x31 0 0 .decf = some 0x00003309 ∧ prioRow 0x11 0 0 .decf = some 0x00003307 ∧
    prioRow 0x36 8 2 .decf = some 0x0000330B ∧ prioRow 0x06 0 1 .dec = some 0x0000310B ∧
    prioRow 0x07 3 0 .enc = some 0x00003002 ∧ prioRow 0x01 3 0 .dec = some 0x00003104 ∧
    prioRow 0x71 17 0 .encf = some 0x00003202 ∧ prioRow 0x70 8 0 .enc = some 0x00000000 := by decide +kernel

/-! ## Witnesses: states and operands that meet the hypotheses of the statements, each clause at a boundary value -/

/-- TOY has the property CIPHER_INVERSE (95_test_vectors section 2). -/
theorem toy_inverse (d : List Byte) (B : Nat) : (toyEnv d).CipherInverse B := by
  intro x hx
  refine List.ext_getElem (by simp [Env.E, Env.D]) fun k h1 h2 => ?_
  have hk : (k + x.length - 1) % x.length < x.length := Nat.mod_lt _ (by omega)
  have hi : ((k + x.length - 1) % x.length + 1) % x.length = k := by
    rw [Nat.mod_add_mod, show k + x.length - 1 + 1 = k + x.length by omega, Nat.add_mod_right, Nat.mod_eq_of_lt h2]
  simp [Env.E, Env.D, toyEnv, hk, hi, List.getElem?_eq_getElem h2]

theorem reset_inv : State.reset.Inv := by decide

theorem wit_IllegalWordsRaiseOrAreDropped :
    decode 0x00000100#32 = .error .zeroField ∧ (0x00000100#32).extractLsb' 8 24 ≠ 0 ∧
    decode 0x00000003#32 = .error (.opcode 3) ∧ State.reset.err = none ∧
    { State.reset with err := some Err.len }.err ≠ none := by decide

theorem wit_StepRunsTheDecodedCommand :
    (State.reset.withFetchWord 32 0x33).pending = [.regWrite 0x08 0x00000033] ∧ decode 0x00000033#32 = .ok .decf ∧
    Instr.decf.wellFormed = true ∧ State.reset.pending = [] := by decide

theorem wit_EveryHostActionTakesEffect :
    HostAction.legal (.regRead 0x00) = true ∧ HostAction.legal (.regWrite 0xFC 7) = true ∧
    HostAction.legal (.winRead .iv 300) = true ∧ HostAction.legal (.winWrite .buf 0 7) = true ∧
    HostAction.legal (.regRead 0x101) = false ∧ HostAction.legal (.regWrite 0x0A 0) = false := by decide

theorem wit_ClrerrClearsTheError : State.reset.err = none ∧ State.reset.FlagsOk := by decide

theorem wit_PendingErrorDropsCommands :
    let s := { State.reset with err := some Err.chain, errcmd := 0x30 }
    s.err ≠ none ∧ Instr.enc ≠ .nop ∧ Instr.enc ≠ .clrerr ∧ Instr.enc ≠ .srst ∧
    decode 0x000000FF#32 = .error (.opcode 0xFF) ∧
    (HostAction.legal (.regWrite 0x00 0x31) = true ∧ (0x00 : Nat) ≠ 0x08) ∧
    HostAction.legal (.regRead 0x10) = true ∧ HostAction.regRead 0x10 ≠ .regRead 0x0C ∧
    HostAction.legal (.winRead .buf 0) = true := by decide

/-- With an error pending a read still replies with the byte that is there (R223). -/
theorem test_read_while_error :
    shown (perform (.winRead .buf 1) { st 0x30 [1, 7] with err := some .align, errcmd := 0x31 }) State.replies =
      some [.byte 7] := by decide +kernel

/-- Two errors, of an illegal word and of `UNPAD` on unaligned data. -/
theorem wit_ErrorsChangeNothingElse :
    (st 0x30 [1]).FlagsOk ∧ (st 0x30 [1]).err = none ∧
    (∃ t, perform (.regWrite 0x08 0x00000100) (st 0x30 [1]) = .next t ∧ t.err = some .cmd) ∧
    (∃ t, perform (.regWrite 0x08 (encode .unpad)) (st 0x30 [1]) = .next t ∧ t.err = some .align) ∧
    encode .unpad ≠ encode .decf ∧ (0x00000100#32) ≠ encode .decf :=
  ⟨by decide, rfl, ⟨_, rfl, by decide +kernel⟩, ⟨_, rfl, by decide +kernel⟩, by decide, by decide⟩

theorem wit_ClrerrRestoresTheStateBeforeTheError :
    (st 0x00 []).FlagsOk ∧ (st 0x00 []).err = none ∧
    (∃ t, perform (.regWrite 0x08 (encode .start)) (st 0x00 []) = .next t ∧ t.err = some .iv) ∧
    ¬ (encode .start = encode .decf ∧ Err.iv = .pad) :=
  ⟨by decide, rfl, ⟨_, rfl, by decide +kernel⟩, by decide⟩

/-- A state that violates three preconditions of `ENCF`; the first in R245 is `E_LEN`. -/
theorem wit_FirstViolatedPreconditionIsReported :
    let s := (stOf 8 16 0x31 []).setLen 17
    s.err = none ∧ Err.len ≠ .pad ∧ (∃ t, exec .encf s = .next t ∧ t.err = some .len) ∧ s.chv = false :=
  ⟨rfl, by decide, ⟨_, rfl, by decide +kernel⟩, rfl⟩

theorem wit_ReservedSelectorsAreRefused :
    (st 0x07 []).err = none ∧ (st 0x07 []).mode = 7 ∧ 5 ≤ (st 0x50 []).pad.toNat ∧ 5 ≤ (st 0x70 []).pad.toNat := by
  decide +kernel

theorem wit_LdivLoadsTheIv :
    (st 0 ivs).err = none ∧ (st 0 ivs).len.toNat = (st 0 ivs).bsize ∧ (st 0 ivs).bsize ≤ (st 0 ivs).capr ∧
    (st 0 (upFrom 0 65)).capr < (st 0 (upFrom 0 65)).len.toNat ∧
    ((st 0 (upFrom 0 64)).len.toNat ≤ (st 0 (upFrom 0 64)).capr ∧
      (st 0 (upFrom 0 64)).len.toNat ≠ (st 0 (upFrom 0 64)).bsize) := by decide +kernel

theorem wit_StartCopiesTheIv :
    (ready 0x01 []).err = none ∧ (ready 0x01 []).ivv = true ∧ (st 0x01 []).err = none ∧ (st 0x01 []).ivv = false := by
  decide +kernel

theorem wit_PadLengthTable : 1 ≤ 1 ∧ 16 % 8 = 0 ∧ 15 % 8 ≠ 0 ∧ (Scheme.none = .none → 16 % 8 = 0) := by decide

/-- Aligned data for NONE, and the greatest block size of the count-bearing schemes with its greatest count. -/
theorem wit_PadApplyBytes :
    Scheme.zeros ≠ .iso ∧ 1 ≤ 8 ∧ (upFrom 0 16).length % 8 = 0 ∧ 1 ≤ 255 ∧ 255 ≤ 255 ∧
    padApply (toyEnv []) 0 255 .pkcs7 [] = List.replicate 255 255 := by decide +kernel

theorem wit_ValidPaddingPerScheme :
    ([1] : List Byte) ≠ [] ∧ padValid 8 .ansi [1, 0, 0, 3] = true ∧ padValid 8 .pkcs7 [1, 3, 3, 3] = true ∧
    padValid 8 .iso [0, 9] = false ∧ padValid 8 .iso (upFrom 1 8) = true := by decide +kernel

theorem wit_RemovalFollowsThePolicy :
    ([8] : List Byte) ≠ [] ∧ padValid 8 .ansi (upFrom 1 7 ++ [1]) = true ∧ padValid 8 .pkcs7 (upFrom 1 7 ++ [0]) = false ∧
    padValid 8 .iso (upFrom 1 7 ++ [9]) = false := by decide +kernel

theorem wit_PaddingLaws :
    1 ≤ 8 ∧ (Scheme.none = .none → (upFrom 0 16).length % 8 = 0) ∧ (Scheme.iso.countBearing = true → 255 ≤ 255) ∧ (upFrom 0 16).length % 8 = 0 ∧
    (upFrom 0 8 ++ [1]).getD 8 0 = 0x01#8 ∧ (1 ≤ ((upFrom 1 8).getD 7 0).toNat ∧ ((upFrom 1 8).getD 7 0).toNat ≤ 8 ∧
      ((upFrom 1 8).getD 7 0).toNat ≤ (upFrom 1 8).length) := by decide +kernel

/-- The hypotheses of `PAD` for a scheme and a length. -/
abbrev PadReady (s : State) (p : Scheme) : Prop :=
  s.Inv ∧ s.err = none ∧ Scheme.ofCode s.pad = some p ∧ (p.countBearing = true → s.bsize ≤ 255) ∧ s.len.toNat ≤ s.capr ∧
    (p = .none → s.len.toNat % s.bsize = 0) ∧ s.len.toNat + padLen s.bsize p s.len.toNat ≤ s.capr

/-- Every scheme, with the padded data just filling `CAP`, and with nothing to add. -/
theorem wit_PadWritesThePadding :
    PadReady (stOf 8 16 0x00 (upFrom 0 16)) .none ∧ PadReady (stOf 8 16 0x10 (upFrom 0 9)) .zeros ∧
    PadReady (stOf 8 16 0x20 (upFrom 0 8)) .ansi ∧ PadReady (stOf 8 16 0x30 (upFrom 0 15)) .pkcs7 ∧
    PadReady (stOf 8 16 0x40 []) .iso ∧ padLen 8 .none 16 = 0 ∧ padLen 8 .zeros 16 = 0 :=
  ⟨by decide +kernel, by decide +kernel, by decide +kernel, by decide +kernel, by decide +kernel, by decide +kernel,
    by decide +kernel⟩

/-- The hypotheses of `UNPAD` for a scheme. -/
abbrev UnpadReady (s : State) (p : Scheme) : Prop :=
  s.err = none ∧ Scheme.ofCode s.pad = some p ∧ (p.countBearing = true → s.bsize ≠ 256 ∧ s.len ≠ 0) ∧
    s.len.toNat ≤ s.capr ∧ s.len.toNat % s.bsize = 0

theorem wit_UnpadRemovesThePadding :
    UnpadReady (st 0x00 []) .none ∧ UnpadReady (st 0x10 (upFrom 0 64)) .zeros ∧
    (UnpadReady (st 0x30 (upFrom 1 7 ++ [1])) .pkcs7 ∧ padValid 8 .pkcs7 (st 0x30 (upFrom 1 7 ++ [1])).data = true) ∧
    (UnpadReady (st 0x20 (upFrom 1 7 ++ [0])) .ansi ∧ padValid 8 .ansi (st 0x20 (upFrom 1 7 ++ [0])).data = false ∧
      (st 0x20 (upFrom 1 7 ++ [0])).strict = false) ∧
    (UnpadReady (st 0x140 (upFrom 1 7 ++ [9])) .iso ∧ padValid 8 .iso (st 0x140 (upFrom 1 7 ++ [9])).data = false ∧
      (st 0x140 (upFrom 1 7 ++ [9])).strict = true) := by decide +kernel

theorem wit_CounterArithmetic : (255 : Nat) < 256 ^ 1 ∧ (0 : Nat) < 256 ^ 0 := by decide

theorem wit_ChainingKeepsTheLength :
    ivs.length = 8 ∧ (∀ p ∈ [(ivs, ivs), (ivs, ivs)], p.1.length = 8 ∧ p.2.length = 8) ∧
    (∃ t, exec .enc (ready 0x01 msg) = .next t) ∧ ∃ t, exec .dec (ready 0x01 msg) = .next t :=
  ⟨rfl, by decide, ⟨_, rfl⟩, ⟨_, rfl⟩⟩

theorem wit_DecryptionInvertsEncryption :
    (toyEnv []).CipherInverse 8 ∧ ivs.length = 8 ∧ ∀ p ∈ [(ivs, ivs), (ivs, ivs)], p.1.length = 8 ∧ p.2.length = 8 :=
  ⟨toy_inverse [] 8, rfl, by decide⟩

theorem wit_DeltasAndChainOnlyWhereUsed :
    Mode.cbc ≠ .rd ∧ [(ivs, ivs)].map Prod.fst = [(ivs, ([] : Block))].map Prod.fst ∧ (Mode.rd = .ecb ∨ Mode.rd = .rd) := by decide

/-- The hypotheses of `ENC` and, with `DCNT` right, of `DEC` for a mode. -/
abbrev EncReady (s : State) (m : Mode) : Prop :=
  s.Inv ∧ s.err = none ∧ Mode.ofCode s.mode = some m ∧ s.len.toNat ≤ s.capr ∧ s.len.toNat % s.bsize = 0 ∧
    (m.usesIv = true → s.chv = true) ∧ (m = .rd → s.dcnt.toNat = s.len.toNat / s.bsize)

theorem wit_EncTransformsTheData :
    EncReady (st 0x00 msg) .ecb ∧ EncReady (ready 0x01 (upFrom 0 64)) .cbc ∧ EncReady (ready 0x02 msg) .pcbc ∧
    EncReady (ready 0x03 msg) .cfb ∧ EncReady (ready 0x04 msg) .ofb ∧ EncReady (ready 0x05 []) .ctr ∧
    Mode.ecb ≠ .rd ∧ Mode.ctr ≠ .rd :=
  ⟨by decide +kernel, by decide +kernel, by decide +kernel, by decide +kernel, by decide +kernel, by decide +kernel,
    by decide +kernel, by decide +kernel⟩

theorem wit_EncRandomDeltaDrawsItsDeltas :
    EncReady ((st 0x06 msg).setDcnt 2) .rd ∧ EncReady (st 0x06 []) .rd := by decide +kernel

theorem wit_DecTransformsTheData :
    EncReady (st 0x00 []) .ecb ∧ EncReady (ready 0x05 (upFrom 0 64)) .ctr ∧ EncReady ((st 0x06 msg).setDcnt 2) .rd :=
  ⟨by decide +kernel, by decide +kernel, by decide +kernel⟩

theorem wit_InPlaceLoopIsTheFunctionLayer : (ready 0x01 msg).Inv := by decide +kernel

theorem wit_CompositesAreTheirHalves :
    (ready 0x31 [1, 2, 3]).Inv ∧ (ready 0x31 [1, 2, 3]).err = none ∧
    (∃ u, u.err = none ∧ exec .encf (ready 0x31 [1, 2, 3]) = .next u) ∧
    (ready 0x11 msg).Inv ∧ (ready 0x11 msg).err = none ∧ ∃ u, u.err = none ∧ exec .decf (ready 0x11 msg) = .next u :=
  ⟨by decide +kernel, rfl, ⟨_, by decide +kernel, rfl⟩, by decide +kernel, rfl, ⟨_, by decide +kernel, rfl⟩⟩

/-- The hypotheses of `ENCF` for a mode and a scheme. -/
abbrev EncfReady (s : State) (m : Mode) (p : Scheme) : Prop :=
  s.Inv ∧ s.err = none ∧ Mode.ofCode s.mode = some m ∧ Scheme.ofCode s.pad = some p ∧
    (p.countBearing = true → s.bsize ≤ 255) ∧ (p = .none → s.len.toNat % s.bsize = 0) ∧
    s.len.toNat + padLen s.bsize p s.len.toNat ≤ s.capr ∧ (m.usesIv = true → s.chv = true)

theorem wit_EncfPadsThenEncrypts :
    EncfReady (stOf 8 16 0x40 (upFrom 0 8)) .ecb .iso ∧ EncfReady (ready 0x31 (upFrom 0 63)) .cbc .pkcs7 ∧
    EncfReady (ready 0x15 []) .ctr .zeros ∧ EncfReady (st 0x46 [1, 2]) .rd .iso ∧ EncfReady (ready 0x02 msg) .pcbc .none ∧
    EncfReady (ready 0x24 msg) .ofb .ansi :=
  ⟨by decide +kernel, by decide +kernel, by decide +kernel, by decide +kernel, by decide +kernel, by decide +kernel⟩

/-- The hypotheses of `DECF` for a mode and a scheme. -/
abbrev DecfReady (s : State) (m : Mode) (p : Scheme) : Prop :=
  s.Inv ∧ s.err = none ∧ Mode.ofCode s.mode = some m ∧ Scheme.ofCode s.pad = some p ∧
    (p.countBearing = true → s.bsize ≤ 255 ∧ s.len ≠ 0) ∧ s.len.toNat ≤ s.capr ∧ s.len.toNat % s.bsize = 0 ∧
    (m.usesIv = true → s.chv = true) ∧ (m = .rd → s.dcnt.toNat = s.len.toNat / s.bsize)

theorem wit_DecfDecryptsThenRemoves :
    DecfReady (st 0x00 []) .ecb .none ∧ DecfReady (ready 0x11 msg) .cbc .zeros ∧
    (DecfReady (ready 0x31 msg) .cbc .pkcs7 ∧ (ready 0x31 msg).strict = false) ∧
    (DecfReady (ready 0x131 msg) .cbc .pkcs7 ∧ (ready 0x131 msg).strict = true) ∧
    DecfReady ((st 0x46 msg).setDcnt 2) .rd .iso :=
  ⟨by decide +kernel, by decide +kernel, ⟨by decide +kernel, by decide⟩,
    ⟨by decide +kernel, by decide⟩, by decide +kernel⟩

/-- The instance `B = 1`, `CAP = 2` with one byte `x` in `BUF`, CFB, PKCS7, `CV = 00`, and the policy `strict`. -/
def oneByte (x : Byte) (strict : Bool) : State :=
  { stOf 1 2 0x33 [] with
    buf := Memory.write [] 0 x, len := 1, ivv := true, chv := true, strict := strict }

/-- Whatever the cipher is, some data has a valid padding after decryption (`v = 1`) and some an invalid one (`v = 2`): `DECF`
in CFB mode XORs the input with `E(CV)`. -/
theorem wit_DecfValidAndInvalid (v : Byte) (strict : Bool) :
    let s := oneByte (v ^^^ Config.encByte [0] 0) strict
    let r := chainDec Config.env .cfb ⟨s.cv, s.pv⟩ ((s.buf.blocks 0 s.bsize 1).zip (s.dlt.blocks 0 s.bsize 1))
    DecfReady s .cfb .pkcs7 ∧ s.len.toNat / s.bsize = 1 ∧ s.strict = strict ∧ r.1.flatten = [v] ∧
      padValid 1 .pkcs7 [1] = true ∧ padValid 1 .pkcs7 [2] = false := by
  have hw : (Memory.write [] 0 (v ^^^ Config.encByte [0] 0)).wf := Memory.wf_write (by simp [Memory.wf]) _ _
  have hb : Memory.below (Memory.write [] 0 (v ^^^ Config.encByte [0] 0)) 2 :=
    Memory.below_write (by simp [Memory.below]) (by decide) _
  have hr : (Memory.write [] 0 (v ^^^ Config.encByte [0] 0)).read 0 = v ^^^ Config.encByte [0] 0 :=
    Memory.read_write_same (by simp [Memory.wf]) _ _
  have hi : (⟨1, 2⟩ : Params).Legal ∧ (⟨1, 2⟩ : Params).blockSize ≤ 255 ∧ (1#21).toNat % 1 = 0 := by decide
  refine ⟨⟨⟨hi.1, ⟨rfl, rfl, rfl⟩, ⟨hw, hb, ⟨List.Pairwise.nil, fun c hc => nomatch hc⟩, fun c hc => nomatch hc⟩, fun _ => rfl, fun _ => rfl⟩,
    rfl, rfl, rfl, fun _ => ⟨hi.2.1, fun h => nomatch h⟩, show (1#21).toNat ≤ 2 by decide, hi.2.2, fun _ => rfl,
    fun h => nomatch h⟩, show (1#21).toNat / 1 = 1 by decide, rfl, ?_, by decide, by decide⟩
  show [(Memory.write [] 0 (v ^^^ Config.encByte [0] 0)).read 0 ^^^ Config.encByte [0] 0] = [v]
  rw [hr, BitVec.xor_assoc, BitVec.xor_self, BitVec.xor_zero]

theorem wit_BlockCountsOfEncf :
    (ready 0x31 msg).Inv ∧ (ready 0x31 msg).err = none ∧
    (∃ t, exec .encf (ready 0x31 msg) = .next t ∧ t.err = none) ∧ (ready 0x31 msg).pad = 3 ∧
    (∃ t, exec .encf (ready 0x11 [1]) = .next t ∧ t.err = none) ∧ (ready 0x11 [1]).pad = 1 ∧
    (∃ t, exec .encf (ready 0x01 msg) = .next t ∧ t.err = none) ∧ (ready 0x01 msg).pad = 0 :=
  ⟨by decide +kernel, rfl, ⟨_, rfl, by decide +kernel⟩, rfl, ⟨_, rfl, by decide +kernel⟩, rfl,
    ⟨_, rfl, by decide +kernel⟩, rfl⟩

theorem wit_EmptyFinalChunk :
    EncfReady (ready 0x01 []) .cbc .none ∧ EncfReady (st 0x16 []) .rd .zeros ∧ (st 0x16 []).len = 0 ∧
    (ready 0x01 []).len = 0 ∧ (st 0x16 []).dcnt = 0 ∧ (ready 0x01 []).pad = 0 ∧ (st 0x16 []).pad = 1 :=
  ⟨by decide +kernel, by decide +kernel, by decide +kernel, by decide +kernel, by decide +kernel, by decide +kernel,
    by decide +kernel⟩

theorem wit_EncryptThenDecryptGivesTheDataBack :
    (toyEnv []).CipherInverse 8 ∧ EncfReady (ready 0x31 (upFrom 0 63)) .cbc .pkcs7 ∧ EncfReady (ready 0x16 msg) .rd .zeros ∧
    (ready 0x31 (upFrom 0 63)).ivv = true ∧ (ready 0x31 (upFrom 0 63)).cv = (ready 0x31 (upFrom 0 63)).iv ∧
    (ready 0x31 (upFrom 0 63)).pv = (ready 0x31 (upFrom 0 63)).iv ∧ (ready 0x16 msg).chv = true :=
  ⟨toy_inverse [] 8, by decide +kernel, by decide +kernel, rfl, rfl, rfl, rfl⟩

/-- The hypotheses of a message encrypted in the chunks `d₁` and `d₂`. -/
abbrev ChunksReady (s : State) (m : Mode) (p : Scheme) (d₁ d₂ : List Byte) : Prop :=
  (s.Inv ∧ s.err = none ∧ Mode.ofCode s.mode = some m ∧ Scheme.ofCode s.pad = some p ∧ (m = .rd → p ≠ .iso)) ∧
    (p.countBearing = true → s.bsize ≤ 255) ∧ d₁.length % s.bsize = 0 ∧ (p = .none → d₂.length % s.bsize = 0) ∧
    d₁.length + d₂.length + padLen s.bsize p d₂.length ≤ s.capr ∧ (m.usesIv = true → s.chv = true)

/-- A run without draws, the two kinds of run that draw, and an empty last chunk. -/
theorem wit_ChunkedMessageIsTheWholeMessage :
    ChunksReady (ready 0x31 []) .cbc .pkcs7 (upFrom 0 16) (upFrom 0 40) ∧
    ChunksReady (ready 0x44 []) .ofb .iso (upFrom 0 8) (upFrom 0 55) ∧
    ChunksReady (st 0x16 []) .rd .zeros (upFrom 0 16) (upFrom 0 41) ∧ ChunksReady (st 0x00 []) .ecb .none [] [] :=
  ⟨by decide +kernel, by decide +kernel, by decide +kernel, by decide +kernel⟩

/-- The hypotheses of a ciphertext decrypted in the chunks `c₁` and `c₂` with the deltas `e₁` and `e₂`. -/
abbrev CipherChunksReady (s : State) (m : Mode) (p : Scheme) (c₁ c₂ e₁ e₂ : List Byte) : Prop :=
  (s.Inv ∧ s.err = none ∧ Mode.ofCode s.mode = some m ∧ Scheme.ofCode s.pad = some p) ∧
    (p.countBearing = true → s.bsize ≤ 255 ∧ c₂ ≠ []) ∧ c₁.length % s.bsize = 0 ∧ c₂.length % s.bsize = 0 ∧
    c₁.length + c₂.length ≤ s.capr ∧ e₁.length = c₁.length ∧ e₂.length = c₂.length ∧ (m.usesIv = true → s.chv = true)

/-- The whole `CAP`, RandomDelta, and an empty last chunk under ZEROS. -/
theorem wit_ChunkedDecryptionIsTheWholeDecryption :
    CipherChunksReady (ready 0x131 []) .cbc .pkcs7 (upFrom 0 16) (upFrom 0 48) (upFrom 0 16) (upFrom 0 48) ∧
    CipherChunksReady (st 0x46 []) .rd .iso (upFrom 0 8) (upFrom 0 8) (upFrom 9 8) (upFrom 1 8) ∧
    CipherChunksReady (ready 0x15 []) .ctr .zeros msg [] msg [] :=
  ⟨by decide +kernel, by decide +kernel, by decide +kernel⟩

theorem wit_TransformsNeverWriteTheIv :
    (∀ i ∈ [Instr.start, .enc], i ∈ [Instr.start, .enc, .dec, .encf, .decf, .pad, .unpad]) ∧
    ∃ t, CommandsFrom [.start, .enc] (ready 0x01 msg) t :=
  ⟨by decide, ⟨_, _, rfl, _, rfl, rfl⟩⟩

theorem wit_OnlyTheseWriteIvAndChain :
    (∃ t, step ((st 0 ivs).withFetchWord 32 0x10) = .next t ∧ t.iv ≠ (st 0 ivs).iv) ∧
    ∃ t, step ({ st 0 [] with iv := ivs, ivv := true }.withFetchWord 32 0x11) = .next t ∧ t.cv ≠ (st 0 []).cv :=
  ⟨⟨_, rfl, by decide +kernel⟩, ⟨_, rfl, by decide +kernel⟩⟩

theorem wit_ChainRegistersPerMode :
    (∃ t, exec .enc (ready 0x01 msg) = .next t) ∧ (ready 0x01 msg).mode ≠ 2 ∧
    (∃ t, exec .decf (st 0x10 msg) = .next t) ∧ (st 0x10 msg).mode = 0 ∧ (st 0x06 msg).mode = 6 :=
  ⟨⟨_, rfl⟩, by decide +kernel, ⟨_, rfl⟩, rfl, rfl⟩

theorem wit_DrawsOnlyForIsoAndDeltas :
    (∃ t, exec .pad (st 0x40 []) = .next t ∧ t.draws ≠ (st 0x40 []).draws) ∧
    ∃ t, exec .enc (st 0x06 msg) = .next t ∧ t.draws ≠ (st 0x06 msg).draws ∧ t.dcnt ≠ (st 0x06 msg).dcnt :=
  ⟨⟨_, rfl, by decide +kernel⟩, ⟨_, rfl, by decide +kernel, by decide +kernel⟩⟩

/-- A delta memory that the draw of an RD encryption changes, whatever the free draw is. -/
theorem wit_DeltasChange :
    let s := { stOf 1 2 0x06 [7] with dlt := Memory.write [] 0 (Config.draw 0 + 1) }
    ∃ t, exec .enc s = .next t ∧ t.dlt ≠ s.dlt := by
  refine ⟨_, rfl, fun h => ?_⟩
  have h0 : (Memory.write [] 0 (Config.draw 0 + 1)).wf := Memory.wf_write (by simp [Memory.wf]) _ _
  have h1 : ((Memory.write [] 0 (Config.draw 0 + 1)).write 0 (Config.draw 0)).read 0 = Config.draw 0 :=
    Memory.read_write_same h0 _ _
  have h2 : (Memory.write [] 0 (Config.draw 0 + 1)).read 0 = Config.draw 0 + 1 :=
    Memory.read_write_same (by simp [Memory.wf]) _ _
  have h3 : (Memory.write [] 0 (Config.draw 0 + 1)).write 0 (Config.draw 0) =
      Memory.write [] 0 (Config.draw 0 + 1) := h
  rw [h3, h2] at h1
  revert h1
  generalize Config.draw 0 = x
  revert x
  decide +kernel

theorem wit_CommandsKeepLenInCapacity :
    (ready 0x31 (upFrom 0 63)).Inv ∧ (ready 0x31 (upFrom 0 63)).len.toNat ≤ (ready 0x31 (upFrom 0 63)).capr ∧
    ∃ t, exec .encf (ready 0x31 (upFrom 0 63)) = .next t :=
  ⟨by decide +kernel, by decide +kernel, ⟨_, rfl⟩⟩

theorem wit_EveryStepKeepsTheInvariant :
    (State.reset.withFetchWord 32 0x11).Inv ∧ ∃ t, step (State.reset.withFetchWord 32 0x11) = .next t :=
  ⟨by decide, ⟨_, rfl⟩⟩

theorem wit_ResetMeetsTheInvariant :
    Params.Legal ⟨1, 2⟩ ∧ Contents.Fits ⟨[5], [6], [7], [(1, 9)], [(0, 3)]⟩ ⟨1, 2⟩ := by decide

theorem wit_CtrlWriteAndReadBack : ∃ t, perform (.regWrite 0x00 0xFFFFFFFF) State.reset = .next t := ⟨_, rfl⟩

theorem wit_StatusWordLayout :
    State.reset.err = none ∧ (Err.delta, 11#4) ∈ [(Err.cmd, 1#4), (.delta, 11)] ∧
    { State.reset with err := some Err.delta }.err = some .delta := by decide

theorem wit_ConstantRegistersAndCmdRead :
    (stOf 256 512 0 []).LegalInstance ∧ (stOf 1 2 0 []).LegalInstance := by decide

theorem wit_ReservedLocationsReadZero :
    0x1C % 4 = 0 ∧ 0x1C ≤ 0x1C ∧ 0xFC % 4 = 0 ∧ 0xFC ≤ 0xFC ∧ (st 0 []).capr ≤ 64 ∧ (st 0 []).bsize ≤ 8 := by
  decide +kernel

theorem wit_WindowsReadAndWriteBytes :
    (st 0 [1]).Inv ∧ 63 < (st 0 [1]).capr ∧ 7 < (st 0 [1]).bsize ∧ (Space.iv = .iv ∨ Space.iv = .cv ∨ Space.iv = .pv) := by
  decide +kernel

theorem wit_ReadsHaveNoSideEffect :
    (∃ t, perform (.regRead 0x0C) State.reset = .next t) ∧ ∃ t, perform (.winRead .buf 0) State.reset = .next t :=
  ⟨⟨_, rfl⟩, ⟨_, rfl⟩⟩

theorem wit_ApertureMap :
    ((stOf 256 512 0 []).LegalInstance ∧ 0x400 ≤ 0x400 ∧ 0x400 < 0x100000 ∧ 0x400 ≤ 0xFFFFF ∧ 0xFFFFF < 0x100000) ∧
    (0xFC % 4 = 0 ∧ 0xFC < 0x100) ∧ (0xFF < 0x100 ∧ 0xFFFFF < 0x100000) ∧ (0x0FF < 0x100 ∨ 0x300000 ≤ 0x0FF) ∧
    (0x300000 < 0x100 ∨ 0x300000 ≤ 0x300000) ∧ (0xFE % 4 ≠ 0 ∨ 0x100 ≤ 0xFE) ∧ (0x100 % 4 ≠ 0 ∨ 0x100 ≤ 0x100) := by
  decide

end Sys2Proof.Tests
end

section
/-! SUPPORT and PROOFS. The big-endian counter arithmetic of R12 and R159. -/

namespace Sys2Proof.Machine

variable {v w : Block} {b : Byte} {bs : Block}

@[simp] theorem intBe_nil : intBe [] = 0 := rfl

@[simp] theorem intBe_cons (b : Byte) (bs : Block) : intBe (b :: bs) = b.toNat * 256 ^ bs.length + intBe bs := rfl

/-- `int_be` of `n` bytes is below `256^n` (R12). -/
theorem intBe_lt (v : Block) : intBe v < 256 ^ v.length := by
  induction v with
  | nil => simp
  | cons b bs ih =>
    have hb : (b.toNat + 1) * 256 ^ bs.length ≤ 256 * 256 ^ bs.length := Nat.mul_le_mul_right _ b.isLt
    rw [intBe_cons, List.length_cons, Nat.pow_succ']
    linarith

/-- `be_n(v)` holds the low `n` bytes of `v` (R12, log 12). -/
theorem intBe_beBytes (n v : Nat) : intBe (beBytes n v) = v % 256 ^ n := by
  induction n with
  | zero => simp [beBytes, Nat.mod_one]
  | succ n ih => simp [beBytes, ih, Nat.mod_pow_succ, Nat.mul_comm, Nat.add_comm]

/-- The first byte is the high digit of `int_be`. -/
theorem intBe_cons_div (b : Byte) (bs : Block) : intBe (b :: bs) / 256 ^ bs.length = b.toNat := by
  rw [intBe_cons, Nat.add_comm, Nat.add_mul_div_right _ _ (by positivity), Nat.div_eq_of_lt (intBe_lt bs), Nat.zero_add]

/-- The later bytes are the remainder of `int_be`. -/
theorem intBe_cons_mod (b : Byte) (bs : Block) : intBe (b :: bs) % 256 ^ bs.length = intBe bs := by
  rw [intBe_cons, Nat.mul_add_mod_self_right, Nat.mod_eq_of_lt (intBe_lt bs)]

/-- Two blocks of one length with the same big-endian value are equal. -/
theorem intBe_injective (hlen : v.length = w.length) (h : intBe v = intBe w) : v = w := by
  induction v generalizing w with
  | nil => exact (List.length_eq_zero_iff.1 hlen.symm).symm
  | cons b bs ih =>
    obtain _ | ⟨c, cs⟩ := w
    · simp at hlen
    have hl : bs.length = cs.length := by simpa using hlen
    have hhigh : b.toNat = c.toNat := by rw [← intBe_cons_div b bs, h, hl, intBe_cons_div]
    have hlow : intBe bs = intBe cs := by rw [← intBe_cons_mod b bs, h, hl, intBe_cons_mod]
    rw [BitVec.eq_of_toNat_eq hhigh, ih hl hlow]

/-- `be_B` undoes `int_be` (R12). -/
theorem beBytes_intBe (v : Block) : beBytes v.length (intBe v) = v :=
  intBe_injective (by simp) (by rw [intBe_beBytes, Nat.mod_eq_of_lt (intBe_lt v)])

/-- `Inc(V)` adds 1 modulo `256^B` (R159). -/
theorem intBe_incBlock (v : Block) : intBe (incBlock v) = (intBe v + 1) % 256 ^ v.length := by
  rw [incBlock, intBe_beBytes, Nat.mod_mod]

/-! ## The byte-wise carry -/

theorem incCarry_cons_of_carry (h : (incCarry bs).1 = true) :
    incCarry (b :: bs) = (decide (b + 1 = 0), (b + 1) :: (incCarry bs).2) := by simp [incCarry, h]

theorem incCarry_cons_of_not_carry (h : (incCarry bs).1 = false) :
    incCarry (b :: bs) = (false, b :: (incCarry bs).2) := by simp [incCarry, h]

@[simp] theorem length_incCarry (v : Block) : (incCarry v).2.length = v.length := by
  induction v with
  | nil => rfl
  | cons b bs ih =>
    cases h : (incCarry bs).1 with
    | true => simp [incCarry_cons_of_carry h, ih]
    | false => simp [incCarry_cons_of_not_carry h, ih]

/-- One byte of the add: its carry out, worth 256, and its new value make the old value plus 1. -/
theorem byte_carry_add (b : Byte) : (decide (b + 1 = 0)).toNat * 256 + (b + 1).toNat = b.toNat + 1 := by
  by_cases hb : b + 1 = 0
  · rw [show b = 255 by bv_omega]; rfl
  · simp only [hb, decide_false, Bool.toNat_false]; bv_omega

/-- The carry out of a block, worth `256^B`, and the block after the add make the old integer plus 1 (R159). -/
theorem incCarry_value (v : Block) :
    (incCarry v).1.toNat * 256 ^ v.length + intBe (incCarry v).2 = intBe v + 1 := by
  induction v with
  | nil => rfl
  | cons b bs ih =>
    cases h : (incCarry bs).1 with
    | true =>
      have hbyte := congrArg (· * 256 ^ bs.length) (byte_carry_add b)
      simp only [h, Bool.toNat_true] at ih
      simp only [incCarry_cons_of_carry h, intBe_cons, length_incCarry, List.length_cons, Nat.pow_succ']
      linarith
    | false =>
      simp only [h, Bool.toNat_false] at ih
      simp only [incCarry_cons_of_not_carry h, intBe_cons, length_incCarry, Bool.toNat_false]
      omega

/-- The byte-wise counter is `Inc` (R159). -/
theorem incBlock_eq_incBytes (v : Block) : incBlock v = incBytes v := by
  have hlt := intBe_lt (incCarry v).2
  rw [length_incCarry] at hlt
  refine intBe_injective (by simp [incBytes]) ?_
  rw [intBe_incBlock, ← incCarry_value, Nat.mul_add_mod_self_right, Nat.mod_eq_of_lt hlt, incBytes]

/-- Settles O26: `int_be` is injective on blocks of one length, so every equation between blocks is one between their
values, and the byte-wise carry has the value of the sum. -/
theorem counterArithmetic : Obligations.CounterArithmetic := by
  unfold Obligations.CounterArithmetic
  exact ⟨fun B n hn => by rw [intBe_beBytes, Nat.mod_eq_of_lt hn], fun v =>
    ⟨beBytes_intBe v, intBe_lt v, length_incBlock v, intBe_incBlock v, incBlock_eq_incBytes v⟩⟩

end Sys2Proof.Machine
end

section
/-! PROOFS. Decryption undoes encryption, block by block and over a run (R8, R160). -/

namespace Sys2Proof.Machine

variable {B : Nat} {env : Env} {m : Mode} {c : Chain} {x δ : Block}

/-- XOR with two blocks in either order, whatever the lengths. -/
theorem xorBlock_right_comm (x y z : Block) : xorBlock (xorBlock x y) z = xorBlock (xorBlock x z) y :=
  List.ext_getElem (by simp; omega) fun _ _ _ => by simp only [xorBlock, List.getElem_zipWith]; ac_rfl

/-- XOR with two blocks and again with both, in the same order, gives the block back (PCBC, R154). -/
theorem xorBlock_cancel_pair {y z : Block} (hy : x.length = y.length) (hz : x.length = z.length) :
    xorBlock (xorBlock (xorBlock (xorBlock x y) z) y) z = x := by
  rw [xorBlock_right_comm x y z, xorBlock_cancel (by simp [hz] at hy ⊢; omega), xorBlock_cancel hz]

/-- With CIPHER_INVERSE the decryption block step undoes the encryption one and leaves the same chain state (R152 to R158). -/
theorem decBlock_encBlock (hE : env.CipherInverse B) (hc : c.Sized B) (hx : x.length = B) (hδ : δ.length = B) :
    decBlock env m c (encBlock env m c x δ).1 δ = (x, (encBlock env m c x δ).2) := by
  obtain ⟨hcv, hpv⟩ := hc
  have hDE : ∀ {y : Block}, y.length = B → env.D (env.E y) = y := fun hy => hE _ hy
  cases m with
  | ecb => simp only [decBlock, encBlock, hDE hx]
  | cbc | rd => simp only [decBlock, encBlock]; rw [hDE (by simp [*]), xorBlock_cancel (by simp [*])]
  | pcbc => simp only [decBlock, encBlock]; rw [hDE (by simp [*]), xorBlock_cancel_pair (by simp [*]) (by simp [*])]
  | cfb | ofb | ctr => simp only [decBlock, encBlock]; rw [xorBlock_cancel (by simp [*])]

/-- A run of decryption steps undoes a run of encryption steps from the same state with the same deltas (R160). -/
theorem chainDec_chainEnc (hE : env.CipherInverse B) {ins : List (Block × Block)} (hc : c.Sized B)
    (hins : ∀ q ∈ ins, q.1.length = B ∧ q.2.length = B) :
    chainDec env m c ((chainEnc env m c ins).1.zip (ins.map Prod.snd)) =
      (ins.map Prod.fst, (chainEnc env m c ins).2) := by
  unfold chainDec chainEnc
  induction ins generalizing c with
  | nil => rfl
  | cons q ins ih =>
    obtain ⟨x, δ⟩ := q
    obtain ⟨hx, hδ⟩ := hins (x, δ) (by simp)
    have hstep : decBlock env m c (encBlock env m c x δ).1 δ = (x, (encBlock env m c x δ).2) :=
      decBlock_encBlock hE hc hx hδ
    have hrest := ih (encBlock_sized (env := env) (m := m) hc hx hδ).2 fun q hq => hins q (by simp [hq])
    simp [hstep, hrest]

/-- Settles O30: each block step is undone from the state it started in, so the run is, by induction on its blocks. -/
theorem decryptionInvertsEncryption : Obligations.DecryptionInvertsEncryption := by
  unfold Obligations.DecryptionInvertsEncryption
  exact fun env m B c ins hE hcv hpv hins => chainDec_chainEnc hE ⟨hcv, hpv⟩ hins

end Sys2Proof.Machine
end

section
/-! SUPPORT and PROOFS. The in-place block loop of R73 and the transform of the whole buffer. -/

namespace Sys2Proof.Machine

variable {f : Chain → Block → Block → Block × Chain} {s : State}

/-- What the block step answers on block `i` of the data: the output and the next chain state. -/
def State.blockResult (f : Chain → Block → Block → Block × Chain) (i : Nat) (s : State) : Block × Chain :=
  f s.chain (s.buf.readN (i * s.bsize) s.bsize) (s.dlt.readN (i * s.bsize) s.bsize)

/-- One pass of the loop of R73: block `i` is read, stepped and written back, and the chain state is updated. -/
def State.stepBlock (f : Chain → Block → Block → Block × Chain) (i : Nat) (s : State) : State :=
  (s.setBuf (s.buf.writeN (i * s.bsize) (s.blockResult f i).1)).setChain
    (s.blockResult f i).2.cv (s.blockResult f i).2.pv

/-- The function layer on the `n` blocks from block `i` on. -/
def State.transformBlocks (f : Chain → Block → Block → Block × Chain) (i n : Nat) (s : State) : State :=
  let r := chainRun f s.chain ((s.buf.blocks (i * s.bsize) s.bsize n).zip (s.dlt.blocks (i * s.bsize) s.bsize n))
  (s.setBuf (s.buf.writeN (i * s.bsize) r.1.flatten)).setChain r.2.cv r.2.pv

theorem State.inPlaceLoop_succ (i n : Nat) (s : State) :
    s.inPlaceLoop f i (n + 1) = (s.stepBlock f i).inPlaceLoop f (i + 1) n := rfl

@[simp] theorem State.stepBlock_bsize (i : Nat) (s : State) : (s.stepBlock f i).bsize = s.bsize := rfl

@[simp] theorem State.stepBlock_dlt (i : Nat) (s : State) : (s.stepBlock f i).dlt = s.dlt := rfl

@[simp] theorem State.stepBlock_chain (i : Nat) (s : State) : (s.stepBlock f i).chain = (s.blockResult f i).2 := rfl

@[simp] theorem State.stepBlock_buf (i : Nat) (s : State) :
    (s.stepBlock f i).buf = s.buf.writeN (i * s.bsize) (s.blockResult f i).1 := rfl

/-- A pass on block `i` leaves the later blocks as they were. -/
theorem State.stepBlock_laterBlocks {i : Nat} (hlen : (s.blockResult f i).1.length = s.bsize) (n : Nat) :
    (s.stepBlock f i).buf.blocks ((i + 1) * s.bsize) s.bsize n = s.buf.blocks ((i + 1) * s.bsize) s.bsize n :=
  Memory.blocks_congr fun _ _ => Memory.read_writeN_other (by rw [hlen, Nat.succ_mul]; omega) s.buf

theorem State.transform_eq_transformBlocks (s : State) :
    s.transform (chainRun f) = s.transformBlocks f 0 s.blockCount := by
  simp [State.transform, State.transformBlocks, State.blockInputs]

/-- The function layer on `n + 1` blocks is one pass of the loop on the first, then the function layer on the rest. -/
theorem State.transformBlocks_succ {i : Nat} (hlen : (s.blockResult f i).1.length = s.bsize) (n : Nat) :
    s.transformBlocks f i (n + 1) = (s.stepBlock f i).transformBlocks f (i + 1) n := by
  have hnext : i * s.bsize + s.bsize = (i + 1) * s.bsize := (Nat.succ_mul i s.bsize).symm
  unfold State.transformBlocks
  rw [State.stepBlock_bsize, State.stepBlock_laterBlocks hlen]
  simp only [Memory.blocks, List.zip_cons_cons, chainRun_cons, List.flatten_cons, hnext]
  unfold State.blockResult at hlen
  rw [Memory.writeN_append, hlen, hnext]
  rfl

/-- The loop over `n` blocks is the function layer on them, for a block step that keeps the sizes (R73). -/
theorem State.inPlaceLoop_eq_transformBlocks
    (hf : ∀ {c x δ}, c.Sized s.bsize → x.length = s.bsize → δ.length = s.bsize →
      (f c x δ).1.length = s.bsize ∧ (f c x δ).2.Sized s.bsize)
    (hs : s.chain.Sized s.bsize) (i n : Nat) : s.inPlaceLoop f i n = s.transformBlocks f i n := by
  induction n generalizing i s with
  | zero => rfl
  | succ n ih =>
    have hstep : (s.blockResult f i).1.length = s.bsize ∧ (s.blockResult f i).2.Sized s.bsize :=
      hf hs (Memory.length_readN ..) (Memory.length_readN ..)
    obtain ⟨hlen, hsized⟩ := hstep
    rw [State.inPlaceLoop_succ, State.transformBlocks_succ hlen]
    exact ih (s := s.stepBlock f i) hf hsized (i + 1)

/-- Settles O35: the loop over all blocks of the data is the function layer on them, and both block steps keep the sizes. -/
theorem inPlaceLoopIsTheFunctionLayer : Obligations.InPlaceLoopIsTheFunctionLayer := by
  unfold Obligations.InPlaceLoopIsTheFunctionLayer
  intro env m s hI
  obtain ⟨_, ⟨_, hcv, hpv⟩, _, _⟩ := hI
  have hs : s.chain.Sized s.bsize := ⟨hcv, hpv⟩
  unfold chainEnc chainDec
  rw [State.transform_eq_transformBlocks, State.transform_eq_transformBlocks]
  exact ⟨State.inPlaceLoop_eq_transformBlocks encBlock_sized hs 0 _,
    State.inPlaceLoop_eq_transformBlocks decBlock_sized hs 0 _⟩

end Sys2Proof.Machine
end

section
/-! SUPPORT and PROOFS. Everything a command can do, with what its checks guarantee: later proofs split on this, and not on
`exec` and its checks again. -/

namespace Sys2Proof.Machine

variable {s t : State} {i : Instr} {checks : List (Bool × Err)} {body : State}

/-- Everything the command `i` can make of the state `s`, with what the checks before an effect have established. -/
inductive CommandResult (s : State) : Instr → State → Prop where
  | unchanged (i : Instr) : CommandResult s i s
  | raised (i : Instr) (e : Err) : CommandResult s i (s.raise e i.opcode)
  | clrerr : CommandResult s .clrerr s.clearErr
  | srst : CommandResult s .srst s.softReset
  | ldiv : CommandResult s .ldiv (s.loadIv (s.buf.readN 0 s.bsize))
  | start (hivv : s.ivv = true) : CommandResult s .start ((s.setChain s.iv s.iv).setChv true)
  | pad {p : Scheme} (hp : Scheme.ofCode s.pad = some p)
      (hfit : s.len.toNat + padLen s.bsize p s.len.toNat ≤ s.capr) : CommandResult s .pad (s.padStep Config.env p)
  | unpad (p : Scheme) : CommandResult s .unpad (s.removeStep Instr.unpad.opcode p)
  | enc {m : Mode} (hm : Mode.ofCode s.mode = some m) (hlen : s.len.toNat ≤ s.capr) :
      CommandResult s .enc (s.encStep Config.env m)
  | dec {m : Mode} (hm : Mode.ofCode s.mode = some m) (hlen : s.len.toNat ≤ s.capr) :
      CommandResult s .dec (s.decStep Config.env m)
  | encf {m : Mode} {p : Scheme} (hm : Mode.ofCode s.mode = some m) (hp : Scheme.ofCode s.pad = some p)
      (hfit : s.len.toNat + padLen s.bsize p s.len.toNat ≤ s.capr) :
      CommandResult s .encf ((s.padStep Config.env p).encStep Config.env m)
  | decf {m : Mode} (p : Scheme) (hm : Mode.ofCode s.mode = some m) (hlen : s.len.toNat ≤ s.capr) :
      CommandResult s .decf ((s.decStep Config.env m).removeStep Instr.decf.opcode p)

/-- A dropped command and a failed check are results of every command; what remains is the effect. -/
theorem CommandResult.of_command (hbody : firstFailing checks = none → CommandResult s i body) :
    CommandResult s i (s.command i.opcode checks body) := by
  rcases s.command_cases i.opcode checks body with ⟨-, h⟩ | ⟨-, e, -, h⟩ | ⟨-, hf, h⟩ <;> rw [h]
  · exact .unchanged i
  · exact .raised i e
  · exact hbody hf

theorem check_of_pass {b : Bool} {e : Err} (hf : firstFailing checks = none) (hc : (b, e) ∈ checks) : b = false :=
  firstFailing_eq_none.1 hf _ hc

theorem State.len_le_of_pass (hf : firstFailing checks = none) (hc : (s.lenOver, .len) ∈ checks) :
    s.len.toNat ≤ s.capr := by
  simpa [State.lenOver] using check_of_pass hf hc

theorem State.padded_le_of_pass {p : Scheme} (hf : firstFailing checks = none) (hc : (s.padOverflows, .ovf) ∈ checks)
    (hp : Scheme.ofCode s.pad = some p) : s.len.toNat + padLen s.bsize p s.len.toNat ≤ s.capr := by
  simpa [State.padOverflows, State.selScheme, hp] using check_of_pass hf hc

/-- Every command does one of the things `CommandResult` lists. -/
theorem exec_result (h : exec i s = .next t) : CommandResult s i t := by
  cases i <;> obtain rfl := Host.Outcome.next.inj h
  case nop => exact .unchanged _
  case clrerr => exact .clrerr
  case srst => exact .srst
  case ldiv => exact .of_command fun _ => .ldiv
  case start =>
    refine .of_command fun hf => .start ?_
    simpa using check_of_pass hf (List.mem_singleton_self _)
  case pad =>
    refine .of_command fun hf => ?_
    obtain ⟨p, hp, he⟩ | he := s.padEffect_cases Config.env <;> rw [he]
    · exact .pad hp (State.padded_le_of_pass hf (by simp [State.padChecks]) hp)
    · exact .unchanged _
  case unpad =>
    refine .of_command fun _ => ?_
    obtain ⟨p, -, he⟩ | he := s.unpadEffect_cases <;> rw [he]
    · exact .unpad p
    · exact .unchanged _
  case enc =>
    refine .of_command fun hf => ?_
    obtain ⟨m, hm, he⟩ | he := s.encEffect_cases Config.env <;> rw [he]
    · exact .enc hm (State.len_le_of_pass hf (by simp [State.encChecks]))
    · exact .unchanged _
  case dec =>
    refine .of_command fun hf => ?_
    obtain ⟨m, hm, he⟩ | he := s.decEffect_cases Config.env <;> rw [he]
    · exact .dec hm (State.len_le_of_pass hf (by simp [State.decChecks]))
    · exact .unchanged _
  case encf =>
    refine .of_command fun hf => ?_
    obtain ⟨m, p, hm, hp, he⟩ | he := s.encfEffect_cases Config.env <;> rw [he]
    · exact .encf hm hp (State.padded_le_of_pass hf (by simp [State.encfChecks]) hp)
    · exact .unchanged _
  case decf =>
    refine .of_command fun hf => ?_
    obtain ⟨m, p, hm, -, he⟩ | he := s.decfEffect_cases Config.env <;> rw [he]
    · exact .decf p hm (State.len_le_of_pass hf (by simp [State.decfChecks]))
    · exact .unchanged _

theorem eq_encode_of_decode {w : Word} (h : decode w = .ok i) : w = encode i := by
  obtain ⟨r, -, hw, rfl⟩ := row_of_decode h
  exact hw

theorem decode_encode (i : Instr) : decode (encode i) = .ok i := by cases i <;> rfl

/-- A word written to `CMD` is a command's word and runs that command, or it is illegal (R91, R93). -/
theorem issue_cases {w : Word} (h : issue w s = .next t) :
    (∃ i, w = encode i ∧ CommandResult s i t) ∨ t = s.illegalCommand w := by
  cases hd : decode w with
  | ok i => exact .inl ⟨i, eq_encode_of_decode hd, exec_result (issue_of_ok hd s ▸ h)⟩
  | error e => exact .inr (Host.Outcome.next.inj (issue_of_error hd s ▸ h)).symm

end Sys2Proof.Machine
end

section
/-! SUPPORT and PROOFS. The invariant of the machine (R39): every operation, every command and every host action keeps it. -/

namespace Sys2Proof.Machine

variable {s t : State} {i : Instr} {m : Mode} {p : Scheme} {env : Env}

/-! ## The operations -/

theorem State.raise_inv (hI : s.Inv) (e : Err) (opc : Byte) : (s.raise e opc).Inv := by
  obtain ⟨hinst, hblocks, hmem, hchv, -⟩ := hI
  exact ⟨hinst, hblocks, hmem, hchv, fun h => absurd h (Option.some_ne_none e)⟩

theorem State.clearErr_inv (hI : s.Inv) : s.clearErr.Inv := by
  obtain ⟨hinst, hblocks, hmem, hchv, -⟩ := hI
  exact ⟨hinst, hblocks, hmem, hchv, fun _ => rfl⟩

theorem State.softReset_inv (hI : s.Inv) : s.softReset.Inv := by
  obtain ⟨hinst, hblocks, hmem, -⟩ := hI
  exact ⟨hinst, hblocks, hmem, fun h => h, fun _ => rfl⟩

theorem State.loadIv_inv (hI : s.Inv) {x : Block} (hx : x.length = s.bsize) : (s.loadIv x).Inv := by
  obtain ⟨hinst, ⟨-, hcv, hpv⟩, hmem, -, herr⟩ := hI
  exact ⟨hinst, ⟨hx, hcv, hpv⟩, hmem, fun _ => rfl, herr⟩

theorem State.startChain_inv (hI : s.Inv) (hivv : s.ivv = true) : ((s.setChain s.iv s.iv).setChv true).Inv := by
  obtain ⟨hinst, ⟨hiv, -, -⟩, hmem, -, herr⟩ := hI
  exact ⟨hinst, ⟨hiv, hiv, hiv⟩, hmem, fun _ => hivv, herr⟩

theorem State.padStep_inv (hI : s.Inv) (hfit : s.len.toNat + padLen s.bsize p s.len.toNat ≤ s.capr) :
    (s.padStep env p).Inv := by
  obtain ⟨hinst, hblocks, ⟨hwf, hbelow, hdlt⟩, hflags⟩ := hI
  have hend := (length_padBytes (env := env) (k := s.draws) (p := p) (L := s.len.toNat) hinst.1).symm ▸ hfit
  exact ⟨hinst, hblocks, ⟨Memory.wf_writeN hwf _ _, Memory.below_writeN hbelow hend, hdlt⟩, hflags⟩

theorem State.removeStep_inv (hI : s.Inv) (opc : Byte) (p : Scheme) : (s.removeStep opc p).Inv := by
  obtain ⟨n, bad, -, h⟩ | h := s.removeStep_cases opc p <;> rw [h]
  · exact hI
  · exact State.raise_inv hI .pad opc

/-- The bytes of the whole blocks of the data lie inside the data. -/
theorem State.blockBytes_le (s : State) : s.blockCount * s.bsize ≤ s.len.toNat := Nat.div_mul_le_self _ _

/-- A run that answers as many blocks as the data has, and blocks of `B` bytes, keeps the invariant. -/
theorem State.transform_inv {run : Chain → List (Block × Block) → List Block × Chain} (hI : s.Inv)
    (hlen : s.len.toNat ≤ s.capr) (hcount : (run s.chain s.blockInputs).1.length = s.blockCount)
    (hout : ∀ y ∈ (run s.chain s.blockInputs).1, y.length = s.bsize)
    (hchain : (run s.chain s.blockInputs).2.Sized s.bsize) : (s.transform run).Inv := by
  obtain ⟨hinst, ⟨hiv, -⟩, ⟨hwf, hbelow, hdlt⟩, hflags⟩ := hI
  have hend : 0 + (run s.chain s.blockInputs).1.flatten.length ≤ s.capr := by
    rw [length_flatten_blocks hout, hcount, Nat.zero_add]
    exact s.blockBytes_le.trans hlen
  exact ⟨hinst, ⟨hiv, hchain⟩, ⟨Memory.wf_writeN hwf _ _, Memory.below_writeN hbelow hend, hdlt⟩, hflags⟩

theorem State.drawDeltas_inv (hI : s.Inv) (hlen : s.len.toNat ≤ s.capr) : (s.drawDeltas env).Inv := by
  obtain ⟨hinst, hblocks, ⟨hwf, hbelow, hdwf, hdbelow⟩, hflags⟩ := hI
  have hend : 0 + (drawn env s.draws (s.blockCount * s.bsize)).length ≤ s.capr := by
    rw [length_drawn, Nat.zero_add]
    exact s.blockBytes_le.trans hlen
  exact ⟨hinst, hblocks, ⟨hwf, hbelow, Memory.wf_writeN hdwf _ _, Memory.below_writeN hdbelow hend⟩, hflags⟩

theorem State.chainEnc_inv (hI : s.Inv) (hlen : s.len.toNat ≤ s.capr) : (s.transform (chainEnc env m)).Inv := by
  obtain ⟨hcount, hout, hchain⟩ := s.chainEnc_sized env m hI.2.1
  exact State.transform_inv hI hlen hcount hout hchain

theorem State.encStep_inv (hI : s.Inv) (hlen : s.len.toNat ≤ s.capr) : (s.encStep env m).Inv := by
  by_cases hm : m = .rd
  · subst hm
    exact State.chainEnc_inv (State.drawDeltas_inv hI hlen) hlen
  · rw [State.encStep_of_ne hm]
    exact State.chainEnc_inv hI hlen

theorem State.decStep_inv (hI : s.Inv) (hlen : s.len.toNat ≤ s.capr) : (s.decStep env m).Inv := by
  obtain ⟨hcount, hout, hchain⟩ := s.chainDec_sized env m hI.2.1
  exact State.transform_inv hI hlen hcount hout hchain

/-- A padded length inside a legal `CAP` fits the 21 bits of `LEN` (R7, R30). -/
theorem State.padStep_len (hinst : s.LegalInstance) (hfit : s.len.toNat + padLen s.bsize p s.len.toNat ≤ s.capr) :
    (s.padStep env p).len.toNat = s.len.toNat + padLen s.bsize p s.len.toNat := hinst.toNat_ofNat hfit

theorem State.padStep_len_le (hinst : s.LegalInstance) (hfit : s.len.toNat + padLen s.bsize p s.len.toNat ≤ s.capr) :
    (s.padStep env p).len.toNat ≤ (s.padStep env p).capr := (State.padStep_len hinst hfit).trans_le hfit

theorem State.writeCtrl_inv (hI : s.Inv) (w : Word) : (s.writeCtrl w).Inv := by
  obtain ⟨hinst, hblocks, hmem, hchv, herr⟩ := hI
  rw [State.writeCtrl_eq]
  exact ⟨hinst, hblocks, hmem, fun h => hchv (Bool.and_eq_true_iff.1 h).1, herr⟩

/-! ## Commands, host actions, steps -/

theorem CommandResult.inv (h : CommandResult s i t) (hI : s.Inv) : t.Inv := by
  cases h with
  | unchanged => exact hI
  | raised => exact State.raise_inv hI _ _
  | clrerr => exact State.clearErr_inv hI
  | srst => exact State.softReset_inv hI
  | ldiv => exact State.loadIv_inv hI (Memory.length_readN _ _ _)
  | start hivv => exact State.startChain_inv hI hivv
  | pad _ hfit => exact State.padStep_inv hI hfit
  | unpad p => exact State.removeStep_inv hI _ p
  | enc _ hlen => exact State.encStep_inv hI hlen
  | dec _ hlen => exact State.decStep_inv hI hlen
  | encf _ _ hfit => exact State.encStep_inv (State.padStep_inv hI hfit) (State.padStep_len_le hI.1 hfit)
  | decf p _ hlen => exact State.removeStep_inv (State.decStep_inv hI hlen) _ p

theorem State.illegalCommand_inv (hI : s.Inv) (w : Word) : (s.illegalCommand w).Inv := by
  obtain ⟨-, h⟩ | ⟨-, h⟩ := s.illegalCommand_cases w <;> rw [h]
  · exact hI
  · exact State.raise_inv hI _ _

theorem State.writeReg_inv (hI : s.Inv) (off : Nat) (w : Word) : (s.writeReg off w).Inv := by
  obtain h | h | h | h := s.writeReg_cases off w <;> rw [h]
  · exact State.writeCtrl_inv hI w
  · exact hI
  · exact hI
  · exact hI

theorem State.writeWin_inv (hI : s.Inv) (sp : Space) (k : Nat) (v : Byte) : (s.writeWin sp k v).Inv := by
  obtain ⟨hinst, hblocks, ⟨hwf, hbelow, hdwf, hdbelow⟩, hflags⟩ := hI
  obtain ⟨hk, h⟩ | ⟨hk, h⟩ | h := s.writeWin_cases sp k v <;> rw [h]
  · exact ⟨hinst, hblocks, ⟨Memory.wf_write hwf k v, Memory.below_write hbelow hk v, hdwf, hdbelow⟩, hflags⟩
  · exact ⟨hinst, hblocks, ⟨hwf, hbelow, Memory.wf_write hdwf k v, Memory.below_write hdbelow hk v⟩, hflags⟩
  · exact ⟨hinst, hblocks, ⟨hwf, hbelow, hdwf, hdbelow⟩, hflags⟩

theorem perform_inv {a : HostAction} (h : perform a s = .next t) (hI : s.Inv) : t.Inv := by
  obtain ⟨r, rfl⟩ | ⟨w, -, hw⟩ | ⟨off, w, -, -, rfl⟩ | ⟨sp, k, v, -, rfl⟩ := perform_cases h
  · exact hI
  · obtain ⟨i, -, hres⟩ | rfl := issue_cases hw
    · exact hres.inv hI
    · exact State.illegalCommand_inv hI w
  · exact State.writeReg_inv hI off w
  · exact State.writeWin_inv hI sp k v

/-- Settles O48: a step does nothing or performs a host action, and every host action keeps the invariant. -/
theorem everyStepKeepsTheInvariant : Obligations.EveryStepKeepsTheInvariant := by
  unfold Obligations.EveryStepKeepsTheInvariant
  intro s t hI h
  obtain ⟨-, hs⟩ | ⟨a, rest, -, hs⟩ := step_cases s <;> rw [hs] at h
  · exact Host.Outcome.next.inj h ▸ hI
  · exact perform_inv h hI

end Sys2Proof.Machine
end

section
/-! SUPPORT and PROOFS. What the commands leave unchanged: the constants, the IV, the chain registers, the deltas (R21 to R24,
R37), and `LEN` inside the capacity (R39). -/

namespace Sys2Proof.Machine

variable {s t : State} {i : Instr} {m : Mode} {env : Env} {f : Chain → Block → Block → Block × Chain}

/-! ## The steps that commands are made of -/

/-- The padding step writes `BUF`, `LEN` and the draw count only (R130). -/
@[simp] theorem State.padStep_frame (env : Env) (p : Scheme) (s : State) :
    (s.padStep env p).bsize = s.bsize ∧ (s.padStep env p).capr = s.capr ∧ (s.padStep env p).iv = s.iv ∧
    (s.padStep env p).cv = s.cv ∧ (s.padStep env p).pv = s.pv ∧ (s.padStep env p).dlt = s.dlt ∧
    (s.padStep env p).dcnt = s.dcnt := ⟨rfl, rfl, rfl, rfl, rfl, rfl, rfl⟩

/-- Only ISO padding draws (R124). -/
theorem State.padStep_draws {p : Scheme} (hp : p ≠ .iso) : (s.padStep env p).draws = s.draws := by
  cases p
  case iso => exact absurd rfl hp
  all_goals rfl

/-- The removal step writes `LEN` and flags of `STATUS` only (R131, R208). -/
@[simp] theorem State.removeStep_frame (opc : Byte) (p : Scheme) (s : State) :
    (s.removeStep opc p).bsize = s.bsize ∧ (s.removeStep opc p).capr = s.capr ∧ (s.removeStep opc p).iv = s.iv ∧
    (s.removeStep opc p).cv = s.cv ∧ (s.removeStep opc p).pv = s.pv ∧ (s.removeStep opc p).dlt = s.dlt ∧
    (s.removeStep opc p).dcnt = s.dcnt ∧ (s.removeStep opc p).draws = s.draws := by
  obtain ⟨n, bad, -, h⟩ | h := s.removeStep_cases opc p <;> simp [h]

theorem State.removeStep_len_le (opc : Byte) (p : Scheme) (s : State) :
    (s.removeStep opc p).len.toNat ≤ s.len.toNat := by
  obtain ⟨n, bad, hn, h⟩ | h := s.removeStep_cases opc p <;> rw [h]
  exact (BitVec.toNat_ofNat n 21 ▸ Nat.mod_le _ _).trans hn

/-- A transform writes `BUF` and the chain registers only (R160). -/
@[simp] theorem State.transform_frame (run : Chain → List (Block × Block) → List Block × Chain) (s : State) :
    (s.transform run).bsize = s.bsize ∧ (s.transform run).capr = s.capr ∧ (s.transform run).iv = s.iv ∧
    (s.transform run).len = s.len ∧ (s.transform run).dlt = s.dlt ∧ (s.transform run).dcnt = s.dcnt ∧
    (s.transform run).draws = s.draws := ⟨rfl, rfl, rfl, rfl, rfl, rfl, rfl⟩

/-- The delta draw writes `DLT`, `DCNT` and the draw count only (R168). -/
@[simp] theorem State.drawDeltas_frame (env : Env) (s : State) :
    (s.drawDeltas env).bsize = s.bsize ∧ (s.drawDeltas env).capr = s.capr ∧ (s.drawDeltas env).iv = s.iv ∧
    (s.drawDeltas env).len = s.len := ⟨rfl, rfl, rfl, rfl⟩

theorem State.drawDeltas_chain (env : Env) (s : State) : (s.drawDeltas env).chain = s.chain := rfl

/-- The chaining step of an encryption leaves the constants, the IV and `LEN` alone (R167). -/
@[simp] theorem State.encStep_frame (env : Env) (m : Mode) (s : State) :
    (s.encStep env m).bsize = s.bsize ∧ (s.encStep env m).capr = s.capr ∧ (s.encStep env m).iv = s.iv ∧
    (s.encStep env m).len = s.len := by
  unfold State.encStep
  split <;> simp

/-- Outside RandomDelta an encryption neither draws nor touches the deltas (R167, R168). -/
theorem State.encStep_deltas (hm : m ≠ .rd) (s : State) :
    (s.encStep env m).dlt = s.dlt ∧ (s.encStep env m).dcnt = s.dcnt ∧ (s.encStep env m).draws = s.draws := by
  simp [State.encStep_of_ne hm]

/-- The chaining step of a decryption writes `BUF` and the chain registers only (R169). -/
@[simp] theorem State.decStep_frame (env : Env) (m : Mode) (s : State) :
    (s.decStep env m).bsize = s.bsize ∧ (s.decStep env m).capr = s.capr ∧ (s.decStep env m).iv = s.iv ∧
    (s.decStep env m).len = s.len ∧ (s.decStep env m).dlt = s.dlt ∧ (s.decStep env m).dcnt = s.dcnt ∧
    (s.decStep env m).draws = s.draws := s.transform_frame (chainDec env m)

/-! ## The chain registers of a run -/

/-- What no block step changes of the chain state, no run changes. -/
theorem chainRun_keeps {α : Type} (g : Chain → α) (hf : ∀ c x δ, g (f c x δ).2 = g c) (c : Chain)
    (ins : List (Block × Block)) : g (chainRun f c ins).2 = g c := by
  induction ins generalizing c with
  | nil => rfl
  | cons q ins ih => exact (ih _).trans (hf c q.1 q.2)

/-- Outside PCBC a block step keeps `PV` (R24). -/
theorem blockSteps_keep_pv (env : Env) (hm : m ≠ .pcbc) (c : Chain) (x δ : Block) :
    (encBlock env m c x δ).2.pv = c.pv ∧ (decBlock env m c x δ).2.pv = c.pv := by
  cases m
  case pcbc => exact absurd rfl hm
  all_goals exact ⟨rfl, rfl⟩

/-- In ECB and RandomDelta a block step keeps the chain state (R23, R24). -/
theorem blockSteps_keep_chain (env : Env) (hm : m = .ecb ∨ m = .rd) (c : Chain) (x δ : Block) :
    (encBlock env m c x δ).2 = c ∧ (decBlock env m c x δ).2 = c := by
  obtain rfl | rfl := hm <;> exact ⟨rfl, rfl⟩

/-- The chain state after a transform is that of its run. -/
theorem State.transform_chain (run : Chain → List (Block × Block) → List Block × Chain) (s : State) :
    (s.transform run).chain = (run s.chain s.blockInputs).2 := rfl

/-- The chain state after an encryption is that of a run from the chain state before it. -/
theorem State.encStep_chain (env : Env) (m : Mode) (s : State) :
    ∃ ins, (s.encStep env m).chain = (chainRun (encBlock env m) s.chain ins).2 := by
  unfold State.encStep
  rw [State.transform_chain]
  split
  · rw [State.drawDeltas_chain]
    exact ⟨_, rfl⟩
  · exact ⟨_, rfl⟩

theorem State.encStep_pv (hm : m ≠ .pcbc) (s : State) : (s.encStep env m).pv = s.pv := by
  obtain ⟨ins, h⟩ := s.encStep_chain env m
  exact (congrArg Chain.pv h).trans (chainRun_keeps Chain.pv (fun c x δ => (blockSteps_keep_pv env hm c x δ).1) _ ins)

theorem State.encStep_keeps_chain (hm : m = .ecb ∨ m = .rd) (s : State) : (s.encStep env m).chain = s.chain := by
  obtain ⟨ins, h⟩ := s.encStep_chain env m
  exact h.trans (chainRun_keeps id (fun c x δ => (blockSteps_keep_chain env hm c x δ).1) _ ins)

theorem State.decStep_pv (hm : m ≠ .pcbc) (s : State) : (s.decStep env m).pv = s.pv :=
  chainRun_keeps Chain.pv (fun c x δ => (blockSteps_keep_pv env hm c x δ).2) s.chain s.blockInputs

theorem State.decStep_keeps_chain (hm : m = .ecb ∨ m = .rd) (s : State) : (s.decStep env m).chain = s.chain :=
  chainRun_keeps id (fun c x δ => (blockSteps_keep_chain env hm c x δ).2) s.chain s.blockInputs

theorem State.chain_eq_iff : t.chain = s.chain ↔ t.cv = s.cv ∧ t.pv = s.pv := by simp [State.chain]

/-! ## The IV and the chain state of the machine -/

theorem CommandResult.constants (h : CommandResult s i t) : t.bsize = s.bsize ∧ t.capr = s.capr := by
  cases h <;> simp

/-- Only `LDIV` writes the IV (R21). -/
theorem CommandResult.iv (h : CommandResult s i t) (hi : i ≠ .ldiv) : t.iv = s.iv := by
  cases h with
  | ldiv => exact absurd rfl hi
  | _ => simp

/-- Only `START` and the transforms write the chain registers (R23, R24). -/
theorem CommandResult.chain (h : CommandResult s i t) (hi : i ∉ [Instr.start, .enc, .dec, .encf, .decf]) :
    t.cv = s.cv ∧ t.pv = s.pv := by
  cases h with
  | start | enc | dec | encf | decf => simp at hi
  | _ => simp

/-- A host action runs a command, or it leaves the constants, the IV and the chain registers alone (R69). -/
theorem perform_command_or_frame {a : HostAction} (h : perform a s = .next t) :
    (∃ i, a = .regWrite 0x08 (encode i) ∧ CommandResult s i t) ∨
    (t.bsize = s.bsize ∧ t.capr = s.capr ∧ t.iv = s.iv ∧ t.cv = s.cv ∧ t.pv = s.pv) := by
  obtain ⟨r, rfl⟩ | ⟨w, rfl, hw⟩ | ⟨off, w, -, -, rfl⟩ | ⟨sp, k, v, -, rfl⟩ := perform_cases h
  · exact .inr ⟨rfl, rfl, rfl, rfl, rfl⟩
  · obtain ⟨i, rfl, hres⟩ | rfl := issue_cases hw
    · exact .inl ⟨i, rfl, hres⟩
    · obtain ⟨-, he⟩ | ⟨-, he⟩ := s.illegalCommand_cases w <;> exact .inr (by simp [he])
  · obtain he | he | he | he := s.writeReg_cases off w <;> exact .inr (by simp [he, State.writeCtrl_eq])
  · obtain ⟨-, he⟩ | ⟨-, he⟩ | he := s.writeWin_cases sp k v <;> exact .inr (by simp [he])

/-- Settles O44: a step that changes one of these registers runs a command, and only the named commands do. -/
theorem onlyTheseWriteIvAndChain : Obligations.OnlyTheseWriteIvAndChain := by
  unfold Obligations.OnlyTheseWriteIvAndChain
  intro s t h
  obtain ⟨-, hs⟩ | ⟨a, rest, hpend, hs⟩ := step_cases s <;> rw [hs] at h
  · obtain rfl := Host.Outcome.next.inj h
    simp
  · obtain ⟨i, rfl, hres⟩ | ⟨hB, hcap, hiv, hcv, hpv⟩ := perform_command_or_frame h
    · refine ⟨hres.constants, fun hne => ?_, fun hne => ?_⟩
      · obtain rfl : i = .ldiv := by_contra fun hi => hne (hres.iv hi)
        exact ⟨rest, hpend⟩
      · refine ⟨i, by_contra fun hi => ?_, rest, hpend⟩
        obtain ⟨hcv, hpv⟩ := hres.chain hi
        exact hne.elim (absurd hcv) (absurd hpv)
    · exact ⟨⟨hB, hcap⟩, absurd hiv, fun hne => hne.elim (absurd hcv) (absurd hpv)⟩

/-- What the transforms do to the chain registers in a mode, for any state whose chain state is that of `s` (R23, R24). -/
theorem chain_per_mode {c : BitVec 3} (hm : Mode.ofCode c = some m) (hpv : m ≠ .pcbc → t.pv = s.pv)
    (hchain : m = .ecb ∨ m = .rd → t.chain = s.chain) :
    (c ≠ 2 → t.pv = s.pv) ∧ (c = 0 ∨ c = 6 → t.cv = s.cv ∧ t.pv = s.pv) := by
  rw [Mode.ofCode_eq_some] at hm
  subst hm
  refine ⟨fun h => hpv fun hm => h (hm ▸ rfl), fun h => State.chain_eq_iff.1 (hchain ?_)⟩
  cases m <;> simp_all [Mode.code]

/-- Settles O45: the padding and removal steps keep the chain registers, the chaining step is a run of block steps. -/
theorem chainRegistersPerMode : Obligations.ChainRegistersPerMode := by
  unfold Obligations.ChainRegistersPerMode
  intro i s t hi h
  cases exec_result h with
  | unchanged | raised => simp
  | enc hm => exact chain_per_mode hm (State.encStep_pv · s) (State.encStep_keeps_chain · s)
  | dec hm => exact chain_per_mode hm (State.decStep_pv · s) (State.decStep_keeps_chain · s)
  | encf hm => exact chain_per_mode hm (State.encStep_pv · _) (State.encStep_keeps_chain · _)
  | decf p hm =>
    simpa using chain_per_mode hm (State.decStep_pv (env := Config.env) · s) (State.decStep_keeps_chain · s)
  | _ => simp at hi

/-! ## Draws and deltas -/

theorem Mode.ne_rd_of_ofCode {c : BitVec 3} (hm : Mode.ofCode c = some m) (hc : c ≠ 6) : m ≠ .rd := by
  rintro rfl
  exact hc (Mode.ofCode_eq_some.1 hm)

theorem Scheme.ne_iso_of_ofCode {c : BitVec 3} {p : Scheme} (hp : Scheme.ofCode c = some p) (hc : c ≠ 4) :
    p ≠ .iso := by
  rintro rfl
  exact hc (Scheme.ofCode_eq_some.1 hp)

/-- Only the ISO padding of `PAD` and `ENCF` and the RandomDelta encryptions draw (R124, R168). -/
theorem CommandResult.draws (h : CommandResult s i t) (hiso : i ∈ [Instr.pad, .encf] → s.pad ≠ 4)
    (hrd : i ∈ [Instr.enc, .encf] → s.mode ≠ 6) : t.draws = s.draws := by
  cases h with
  | pad hp => exact State.padStep_draws (Scheme.ne_iso_of_ofCode hp (hiso (by simp)))
  | enc hm => simp [State.encStep_deltas (Mode.ne_rd_of_ofCode hm (hrd (by simp)))]
  | encf hm hp =>
    simp [State.encStep_deltas (Mode.ne_rd_of_ofCode hm (hrd (by simp))),
      State.padStep_draws (Scheme.ne_iso_of_ofCode hp (hiso (by simp)))]
  | _ => simp

/-- Only the RandomDelta encryptions write `DLT` (R37). -/
theorem CommandResult.dlt (h : CommandResult s i t) (hrd : i ∈ [Instr.enc, .encf] → s.mode ≠ 6) : t.dlt = s.dlt := by
  cases h with
  | enc hm | encf hm => simp [State.encStep_deltas (Mode.ne_rd_of_ofCode hm (hrd (by simp)))]
  | _ => simp

/-- Only `SRST` and the RandomDelta encryptions write `DCNT` (R168, R222). -/
theorem CommandResult.dcnt (h : CommandResult s i t) (hsrst : i ≠ .srst)
    (hrd : i ∈ [Instr.enc, .encf] → s.mode ≠ 6) : t.dcnt = s.dcnt := by
  cases h with
  | srst => exact absurd rfl hsrst
  | enc hm | encf hm => simp [State.encStep_deltas (Mode.ne_rd_of_ofCode hm (hrd (by simp)))]
  | _ => simp

/-- Settles O46: a command outside the named ones keeps the draw count, the deltas and their number. -/
theorem drawsOnlyForIsoAndDeltas : Obligations.DrawsOnlyForIsoAndDeltas := by
  unfold Obligations.DrawsOnlyForIsoAndDeltas
  intro i s t h
  have hres := exec_result h
  refine ⟨fun hne => by_contra fun hn => ?_, fun hne => by_contra fun hn => ?_, fun hne => by_contra fun hn => ?_⟩
  · obtain ⟨hiso, hrd⟩ := not_or.1 hn
    exact hne (hres.draws (not_and.1 hiso) (not_and.1 hrd))
  · exact hne (hres.dlt (not_and.1 hn))
  · obtain ⟨hsrst, hrd⟩ := not_or.1 hn
    exact hne (hres.dcnt hsrst (not_and.1 hrd))

/-! ## `LEN` inside the capacity -/

/-- Settles O47: only padding raises `LEN`, and it has checked that the padded length fits. -/
theorem commandsKeepLenInCapacity : Obligations.CommandsKeepLenInCapacity := by
  unfold Obligations.CommandsKeepLenInCapacity
  intro i s t hI hle h
  cases exec_result h with
  | pad _ hfit | encf _ _ hfit => simpa using State.padStep_len_le (env := Config.env) hI.1 hfit
  | unpad p => simpa using (s.removeStep_len_le Instr.unpad.opcode p).trans hle
  | @decf m p => simpa using (State.removeStep_len_le Instr.decf.opcode p (s.decStep Config.env m)).trans hle
  | srst => exact Nat.zero_le _
  | _ => simpa using hle

end Sys2Proof.Machine
end

section
/-! SUPPORT and PROOFS. A step (R61, R75), the reset values (R40, R222) and the registers as the host sees them (R28 to R35). -/

namespace Sys2Proof.Machine

variable {s : State}

/-! ## The step -/

theorem step_of_pending {a : HostAction} {rest : List HostAction} (h : s.pending = a :: rest) :
    step s = perform a (s.setPending rest) := by simp [step, h]

theorem step_of_idle (h : s.pending = []) : step s = .next s := by simp [step, h]

/-- Settles O4: a step performs the next host action, and a decoded word written to `CMD` is issued. -/
theorem stepRunsTheDecodedCommand : Obligations.StepRunsTheDecodedCommand := by
  unfold Obligations.StepRunsTheDecodedCommand
  refine ⟨fun s w i rest hp hd _ => ?_, fun s i => ?_, fun s a rest => step_of_pending, fun s => step_of_idle⟩
  · rw [step_of_pending hp, perform_cmd, issue_of_ok hd]
    rfl
  · have hd : decode (BitVec.ofNat 32 (encode i).toNat) = .ok i := by
      rw [BitVec.ofNat_toNat, BitVec.setWidth_eq, decode_encode]
    exact issue_of_ok hd s

/-! ## Reset -/

theorem Contents.zero_fits (p : Params) : (Contents.zero p).Fits p := by simp [Contents.zero, Contents.Fits, Memory.wf]

theorem State.resetOf_inv {p : Params} {c : Contents} (hp : p.Legal) (hc : c.Fits p) : (State.resetOf p c).Inv := by
  obtain ⟨hblocks, hmem⟩ := hc
  exact ⟨hp, hblocks, hmem, fun h => h, fun _ => rfl⟩

/-- Settles O49: the reset state has the contents it is given and no flag set; the zero contents fit all parameters. -/
theorem resetMeetsTheInvariant : Obligations.ResetMeetsTheInvariant := by
  unfold Obligations.ResetMeetsTheInvariant
  exact ⟨fun _ _ => State.resetOf_inv, State.resetOf_inv (by decide) (Contents.zero_fits _)⟩

/-- A hardware reset leaves the registers as `SRST` does (R40, R222). -/
theorem State.softReset_resetOf (p : Params) (c : Contents) : (State.resetOf p c).softReset = State.resetOf p c := rfl

/-- Settles O50: both resets leave the four register words 0 and the memories as they were or as given. -/
theorem resetValues : Obligations.ResetValues := by
  unfold Obligations.ResetValues
  refine ⟨fun p c => ?_, fun s => ⟨s.softReset, rfl, ?_⟩⟩
  · have hwords := (State.resetOf p c).softReset_words
    rw [State.softReset_resetOf] at hwords
    obtain ⟨hctrl, hlen, hdcnt, hstatus⟩ := hwords
    exact ⟨hctrl, hlen, hdcnt, hstatus, rfl, rfl, rfl, rfl, rfl, rfl, rfl⟩
  · obtain ⟨hctrl, hlen, hdcnt, hstatus⟩ := s.softReset_words
    exact ⟨hctrl, hlen, hdcnt, hstatus, rfl, rfl, rfl, rfl, rfl, rfl, rfl⟩

/-! ## `CTRL` -/

theorem State.ctrlWord_mode (s : State) : s.ctrlWord.extractLsb' 0 3 = s.mode := by
  refine BitVec.eq_of_getLsbD_eq fun n hn => ?_
  simp [State.getLsbD_ctrlWord, hn]

theorem State.ctrlWord_pad (s : State) : s.ctrlWord.extractLsb' 4 3 = s.pad := by
  refine BitVec.eq_of_getLsbD_eq fun n hn => ?_
  have h3 : ¬ 4 + n < 3 := by omega
  have h7 : 4 + n < 7 := by omega
  simp [State.getLsbD_ctrlWord, hn, h3, h7]

theorem State.ctrlWord_strict (s : State) : s.ctrlWord.getLsbD 8 = s.strict := s.getLsbD_ctrlWord 8

/-- The reserved bits of `CTRL` read as 0 (R28). -/
theorem State.ctrlWord_reserved (s : State) : s.ctrlWord &&& 0xFFFFFE88#32 = 0 := by
  refine BitVec.eq_of_getLsbD_eq fun n hn => ?_
  rw [BitVec.getLsbD_and, State.getLsbD_ctrlWord]
  interval_cases n <;> simp

/-- `CTRL` reads back as it was written, with the reserved bits 0 (R28, R29). -/
theorem State.ctrlWord_writeCtrl (s : State) (w : Word) : (s.writeCtrl w).ctrlWord = w &&& 0x00000177#32 := by
  refine BitVec.eq_of_getLsbD_eq fun n hn => ?_
  rw [BitVec.getLsbD_and, State.getLsbD_ctrlWord, State.writeCtrl_eq]
  interval_cases n <;> simp

/-- Settles O51: a write to `CTRL` is `writeCtrl`, and the bits of the word are the fields. -/
theorem ctrlWriteAndReadBack : Obligations.CtrlWriteAndReadBack := by
  unfold Obligations.CtrlWriteAndReadBack
  intro s w
  have hw : perform (.regWrite 0x00 w) s = .next (s.writeCtrl w) := perform_regWrite rfl (by decide) w s
  refine ⟨s.writeCtrl_eq w ▸ hw, fun t ht => ?_, perform_regRead rfl s, s.ctrlWord_mode, s.ctrlWord_pad,
    s.ctrlWord_strict, s.ctrlWord_reserved⟩
  obtain rfl := Host.Outcome.next.inj (hw.symm.trans ht)
  exact s.ctrlWord_writeCtrl w

/-! ## `STATUS` -/

theorem State.statusWord_err (s : State) : s.statusWord.extractLsb' 0 4 = s.errField := by
  refine BitVec.eq_of_getLsbD_eq fun n hn => ?_
  simp [State.getLsbD_statusWord, hn]

theorem State.statusWord_errcmd (s : State) : s.statusWord.extractLsb' 8 8 = s.errcmd := by
  refine BitVec.eq_of_getLsbD_eq fun n hn => ?_
  rw [BitVec.getLsbD_extractLsb', State.getLsbD_statusWord]
  interval_cases n <;> simp

theorem State.statusWord_upper (s : State) : s.statusWord.extractLsb' 16 16 = 0 := by
  refine BitVec.eq_of_getLsbD_eq fun n hn => ?_
  rw [BitVec.getLsbD_extractLsb', State.getLsbD_statusWord]
  interval_cases n <;> simp

theorem State.errField_of_some {e : Err} (h : s.err = some e) : s.errField = e.code := by simp [State.errField, h]

/-- Settles O52: each field of `STATUS` is read off its bits, and the error codes are those of R231. -/
theorem statusWordLayout : Obligations.StatusWordLayout := by
  unfold Obligations.StatusWordLayout
  intro s
  refine ⟨fun h => ?_, fun e n hen h => ?_, s.getLsbD_statusWord 4, s.getLsbD_statusWord 5, s.getLsbD_statusWord 6,
    s.getLsbD_statusWord 7, s.statusWord_errcmd, s.statusWord_upper, perform_regRead rfl s,
    fun v => perform_regWrite rfl (by decide) v s⟩
  · rw [State.statusWord_err, State.errField_eq_zero.2 h]
  · rw [State.statusWord_err, State.errField_of_some h]
    cases e <;> simpa [Err.code, eq_comm] using hen

/-! ## `LEN`, `DCNT` and the constants -/

/-- A 21-bit field above 11 zero bits reads as its value. -/
theorem toNat_word_of_field (v : BitVec 21) : (0#11 ++ v).toNat = v.toNat := by
  rw [BitVec.toNat_append]
  simp

/-- Settles O53: the low 21 bits of the word are stored as they are and read back. -/
theorem lenAndDcntStoreTheirBits : Obligations.LenAndDcntStoreTheirBits := by
  unfold Obligations.LenAndDcntStoreTheirBits
  intro s w
  have hfield : BitVec.ofNat 21 (w.extractLsb' 0 21).toNat = w.extractLsb' 0 21 := by
    rw [BitVec.ofNat_toNat, BitVec.setWidth_eq]
  refine ⟨?_, ?_, ⟨s.lenWord, perform_regRead rfl s, toNat_word_of_field s.len⟩,
    s.dcntWord, perform_regRead rfl s, toNat_word_of_field s.dcnt⟩
  · rw [perform_regWrite rfl (by decide), State.writeReg, State.setLen, hfield]
  · rw [perform_regWrite rfl (by decide), State.writeReg, State.setDcnt, hfield]

theorem State.LegalInstance.bsizeWord (h : s.LegalInstance) : s.bsizeWord.toNat = s.bsize := by
  obtain ⟨-, hB, -⟩ := h
  exact (BitVec.toNat_ofNat _ _).trans (Nat.mod_eq_of_lt (Nat.lt_of_le_of_lt hB (by decide)))

theorem State.LegalInstance.caprWord (h : s.LegalInstance) : s.caprWord.toNat = s.capr := by
  obtain ⟨-, -, -, -, hcap⟩ := h
  exact (BitVec.toNat_ofNat _ _).trans (Nat.mod_eq_of_lt (Nat.lt_of_le_of_lt hcap (by decide)))

/-- Settles O54: legal constants fit a word, and the three offsets have no register to write. -/
theorem constantRegistersAndCmdRead : Obligations.ConstantRegistersAndCmdRead := by
  unfold Obligations.ConstantRegistersAndCmdRead
  intro s hinst
  exact ⟨⟨s.bsizeWord, perform_regRead rfl s, hinst.bsizeWord⟩, ⟨s.caprWord, perform_regRead rfl s, hinst.caprWord⟩,
    perform_regRead rfl s, fun w => ⟨perform_regWrite rfl (by decide) w s, perform_regWrite rfl (by decide) w s⟩⟩

end Sys2Proof.Machine
end

section
/-! SUPPORT and PROOFS. The host actions (R61), the reserved locations (R64), the windows (R67 to R70) and the address map of
the aperture (R62, R63, R66). -/

namespace Sys2Proof.Machine

variable {s : State} {sp : Space} {k off addr : Nat}

/-! ## Registers -/

/-- A word written to `CMD` is always taken: a command runs, an illegal word is recorded or dropped (R93, R246). -/
theorem issue_next (w : Word) (s : State) : ∃ t, issue w s = .next t := by
  cases hd : decode w with
  | ok i => exact issue_of_ok hd s ▸ exec_next i s
  | error e => exact ⟨_, issue_of_error hd s⟩

theorem perform_regWrite_next (h : regAccess off = true) (w : Word) (s : State) :
    ∃ t, perform (.regWrite off w) s = .next t := by
  by_cases hc : off = 0x08
  · subst hc
    exact perform_cmd w s ▸ issue_next w s
  · exact ⟨_, perform_regWrite h hc w s⟩

theorem regAccess_eq_false_iff : regAccess off = false ↔ off % 4 ≠ 0 ∨ 0x100 ≤ off := by
  rw [← Bool.not_eq_true, regAccess_iff]
  omega

/-- Settles O5: only the register accesses have a condition, and under it a write is issued or stored. -/
theorem everyHostActionTakesEffect : Obligations.EveryHostActionTakesEffect := by
  unfold Obligations.EveryHostActionTakesEffect
  intro a s
  cases a with
  | regRead off => exact ⟨fun h => ⟨_, perform_regRead h s⟩, fun h => ⟨off, (perform_misaligned h 0 s).1⟩⟩
  | regWrite off w => exact ⟨fun h => perform_regWrite_next h w s, fun h => ⟨off, (perform_misaligned h w s).2⟩⟩
  | winRead sp k => exact ⟨fun _ => ⟨_, rfl⟩, fun h => absurd h (by simp [HostAction.legal])⟩
  | winWrite sp k v => exact ⟨fun _ => ⟨_, rfl⟩, fun h => absurd h (by simp [HostAction.legal])⟩

theorem State.regValue_of_reserved (h : 0x1C ≤ off) (s : State) : s.regValue off = 0 := by
  obtain ⟨n, rfl⟩ := Nat.exists_eq_add_of_le' h
  rfl

theorem State.writeReg_of_reserved (h : 0x1C ≤ off) (s : State) (w : Word) : s.writeReg off w = s := by
  obtain ⟨n, rfl⟩ := Nat.exists_eq_add_of_le' h
  rfl

/-! ## Windows -/

theorem perform_winRead (sp : Space) (k : Nat) (s : State) :
    perform (.winRead sp k) s = .next { s with replies := .byte (s.winValue sp k) :: s.replies } := rfl

theorem perform_winWrite (sp : Space) (k : Nat) (v : Byte) (s : State) :
    perform (.winWrite sp k v) s = .next (s.writeWin sp k v) := rfl

theorem State.winValue_of_lt (h : k < s.spaceSize sp) : s.winValue sp k = s.spaceByte sp k := if_pos h

theorem State.winValue_of_ge (h : s.spaceSize sp ≤ k) : s.winValue sp k = 0 := if_neg (Nat.not_lt.2 h)

theorem State.writeWin_of_ge (h : s.spaceSize sp ≤ k) (v : Byte) : s.writeWin sp k v = s := if_neg (Nat.not_lt.2 h)

theorem State.writeWin_buf (h : k < s.capr) (v : Byte) :
    s.writeWin .buf k v = { s with buf := s.buf.write k v } := if_pos h

theorem State.writeWin_dlt (h : k < s.capr) (v : Byte) :
    s.writeWin .dlt k v = { s with dlt := s.dlt.write k v } := if_pos h

/-- The windows of the block registers ignore writes (R69). -/
theorem State.writeWin_readOnly (h : sp = .iv ∨ sp = .cv ∨ sp = .pv) (s : State) (k : Nat) (v : Byte) :
    s.writeWin sp k v = s := by
  obtain rfl | rfl | rfl := h <;> exact ite_self s

/-- A space is as large as the capacity or as one block (R60). -/
theorem State.spaceSize_le (hmem : sp = .buf ∨ sp = .dlt → s.capr ≤ k)
    (hblock : sp = .iv ∨ sp = .cv ∨ sp = .pv → s.bsize ≤ k) : s.spaceSize sp ≤ k := by
  cases sp with
  | iv | cv | pv => exact hblock (by simp)
  | buf | dlt => exact hmem (by simp)

/-- A window access outside the valid range (R64). -/
theorem perform_window_of_ge (h : s.spaceSize sp ≤ k) (v : Byte) :
    perform (.winRead sp k) s = .next { s with replies := .byte 0 :: s.replies } ∧
      perform (.winWrite sp k v) s = .next s := by
  rw [perform_winRead, perform_winWrite, State.winValue_of_ge h, State.writeWin_of_ge h]
  exact ⟨rfl, rfl⟩

/-- Settles O55: no register stands at 0x1C or above, and a window's valid range is the size of its space. -/
theorem reservedLocationsReadZero : Obligations.ReservedLocationsReadZero := by
  unfold Obligations.ReservedLocationsReadZero
  refine ⟨fun s off w halign hlow hhigh => ?_, fun s sp k v hmem hblock =>
    perform_window_of_ge (State.spaceSize_le hmem hblock) v⟩
  have hacc : regAccess off = true := regAccess_iff.2 ⟨halign, by omega⟩
  rw [perform_regRead hacc, perform_regWrite hacc (by omega), State.regValue_of_reserved hlow,
    State.writeReg_of_reserved hlow]
  exact ⟨rfl, rfl⟩

theorem perform_winRead_of_lt (h : k < s.spaceSize sp) :
    perform (.winRead sp k) s = .next { s with replies := .byte (s.spaceByte sp k) :: s.replies } := by
  rw [perform_winRead, State.winValue_of_lt h]

/-- Settles O56: a window inside its range is the byte of its space, and a memory reads back what was written to it. -/
theorem windowsReadAndWriteBytes : Obligations.WindowsReadAndWriteBytes := by
  unfold Obligations.WindowsReadAndWriteBytes
  intro s k v hI
  obtain ⟨-, -, ⟨hbuf, -, hdlt, -⟩, -⟩ := hI
  refine ⟨fun hk => ⟨perform_winRead_of_lt hk, perform_winRead_of_lt hk, ?_, ?_⟩,
    fun hk => ⟨perform_winRead_of_lt hk, perform_winRead_of_lt hk, perform_winRead_of_lt hk⟩,
    fun sp hsp => by rw [perform_winWrite, State.writeWin_readOnly hsp]⟩
  · exact ⟨s.buf.write k v, by rw [perform_winWrite, State.writeWin_buf hk], Memory.read_write_same hbuf k v,
      fun a ha => Memory.read_write_other ha s.buf v⟩
  · exact ⟨s.dlt.write k v, by rw [perform_winWrite, State.writeWin_dlt hk], Memory.read_write_same hdlt k v,
      fun a ha => Memory.read_write_other ha s.dlt v⟩

/-! ## Reads -/

/-- The value of a register does not depend on what was read before (R70). -/
theorem perform_regRead_replies (h : regAccess off = true) (s : State) (rs : List Reply) :
    perform (.regRead off) { s with replies := rs } = .next { s with replies := .word (s.regValue off) :: rs } :=
  perform_regRead h _

/-- The value of a window does not depend on what was read before (R70). -/
theorem perform_winRead_replies (sp : Space) (k : Nat) (s : State) (rs : List Reply) :
    perform (.winRead sp k) { s with replies := rs } = .next { s with replies := .byte (s.winValue sp k) :: rs } :=
  perform_winRead sp k _

/-- Settles O57: a read adds its reply, and the value it replies with does not depend on the replies. -/
theorem readsHaveNoSideEffect : Obligations.ReadsHaveNoSideEffect := by
  unfold Obligations.ReadsHaveNoSideEffect
  rintro a s t (⟨off, rfl⟩ | ⟨sp, k, rfl⟩) h
  · cases hacc : regAccess off with
    | false => simp [(perform_misaligned hacc 0 s).1] at h
    | true =>
      obtain rfl := Host.Outcome.next.inj ((perform_regRead hacc s).symm.trans h)
      exact ⟨.word (s.regValue off), rfl, perform_regRead_replies hacc s _⟩
  · obtain rfl := Host.Outcome.next.inj ((perform_winRead sp k s).symm.trans h)
    exact ⟨.byte (s.winValue sp k), rfl, perform_winRead_replies sp k s _⟩

/-! ## The aperture -/

/-- The windows lie at their bases: 0x100 bytes for a block register, 0x100000 for a memory (R63). -/
theorem windowOf_base_add (hblock : sp = .iv ∨ sp = .cv ∨ sp = .pv → k < 0x100)
    (hmem : sp = .buf ∨ sp = .dlt → k < 0x100000) : windowOf (sp.base + k) = some (sp, k) := by
  cases sp with
  | iv =>
    have hk := hblock (by simp)
    rw [Space.base, windowOf, if_neg, if_pos, Nat.add_sub_cancel_left] <;> omega
  | cv =>
    have hk := hblock (by simp)
    rw [Space.base, windowOf, if_neg, if_neg, if_pos, Nat.add_sub_cancel_left] <;> omega
  | pv =>
    have hk := hblock (by simp)
    rw [Space.base, windowOf, if_neg, if_neg, if_neg, if_pos, Nat.add_sub_cancel_left] <;> omega
  | buf =>
    have hk := hmem (by simp)
    rw [Space.base, windowOf, if_neg, if_neg, if_neg, if_neg, if_pos, Nat.add_sub_cancel_left] <;> omega
  | dlt =>
    have hk := hmem (by simp)
    rw [Space.base, windowOf, if_neg, if_neg, if_neg, if_neg, if_neg, if_pos, Nat.add_sub_cancel_left] <;> omega

/-- The reserved range is read as indices of `PV` (log 8). -/
theorem windowOf_reserved (hlow : 0x400 ≤ addr) (hhigh : addr < 0x100000) :
    windowOf addr = some (.pv, addr - 0x300) := by
  rw [windowOf, if_neg, if_neg, if_neg, if_pos] <;> omega

theorem windowOf_eq_none (h : addr < 0x100 ∨ 0x300000 ≤ addr) : windowOf addr = none := by
  obtain hlow | hhigh := h
  · rw [windowOf, if_pos hlow]
  · rw [windowOf, if_neg, if_neg, if_neg, if_neg, if_neg, if_neg] <;> omega

theorem performAccess_of_action {x : Access} {a : HostAction} (h : x.toAction = some a) (s : State) :
    performAccess x s = perform a s := by simp [performAccess, h]

theorem performAccess_of_none {x : Access} (h : x.toAction = none) (s : State) :
    performAccess x s = .refused (.notAnAccess x.addr) := by simp [performAccess, h]

theorem toAction_word (h : regAccess addr = true) (w : Word) :
    Access.toAction (.read .word addr) = some (.regRead addr) ∧
      Access.toAction (.write .word addr w) = some (.regWrite addr w) := ⟨if_pos h, if_pos h⟩

theorem toAction_word_eq_none (h : regAccess addr = false) (w : Word) :
    Access.toAction (.read .word addr) = none ∧ Access.toAction (.write .word addr w) = none := by
  simp [Access.toAction, h]

theorem toAction_byte (h : windowOf addr = some (sp, k)) (w : Word) :
    Access.toAction (.read .byte addr) = some (.winRead sp k) ∧
      Access.toAction (.write .byte addr w) = some (.winWrite sp k (w.extractLsb' 0 8)) := by
  simp [Access.toAction, h]

theorem toAction_byte_eq_none (h : windowOf addr = none) (w : Word) :
    Access.toAction (.read .byte addr) = none ∧ Access.toAction (.write .byte addr w) = none := by
  simp [Access.toAction, h]

/-- A byte of the reserved range reads 0 and ignores writes: its index lies above the valid range of `PV` (R64, log 8). -/
theorem performAccess_reserved (hinst : s.LegalInstance) (hlow : 0x400 ≤ addr) (hhigh : addr < 0x100000) (w : Word) :
    performAccess (.read .byte addr) s = .next { s with replies := .byte 0 :: s.replies } ∧
      performAccess (.write .byte addr w) s = .next s := by
  obtain ⟨-, hB, -⟩ := hinst
  obtain ⟨hread, hwrite⟩ := toAction_byte (windowOf_reserved hlow hhigh) w
  have hsize : s.spaceSize .pv ≤ addr - 0x300 := Nat.le_trans hB (by omega)
  rw [performAccess_of_action hread, performAccess_of_action hwrite]
  exact perform_window_of_ge hsize _

/-- Settles O58: each width is a host action exactly in its part of the aperture, and what is none is refused. -/
theorem apertureMap : Obligations.ApertureMap := by
  unfold Obligations.ApertureMap
  refine ⟨fun off w halign hoff => toAction_word (regAccess_iff.2 ⟨halign, hoff⟩) w,
    fun sp k w hblock hmem => toAction_byte (windowOf_base_add hblock hmem) w,
    fun s a w hinst hlow hhigh => performAccess_reserved hinst hlow hhigh w, ?_,
    fun s off w hout => perform_misaligned (regAccess_eq_false_iff.2 hout) w s⟩
  rintro s a w x ((rfl | rfl) | ⟨rfl | rfl, hout⟩ | ⟨rfl | rfl, hout⟩)
  · exact performAccess_of_none rfl s
  · exact performAccess_of_none rfl s
  · exact performAccess_of_none (toAction_byte_eq_none (windowOf_eq_none hout) w).1 s
  · exact performAccess_of_none (toAction_byte_eq_none (windowOf_eq_none hout) w).2 s
  · exact performAccess_of_none (toAction_word_eq_none (regAccess_eq_false_iff.2 hout) w).1 s
  · exact performAccess_of_none (toAction_word_eq_none (regAccess_eq_false_iff.2 hout) w).2 s

end Sys2Proof.Machine
end

section
/-! SUPPORT and PROOFS. The command words (R90, R91), the illegal words (R93, R232), and the selectors of `CTRL` that a
command uses or does not see (R94, R233). -/

namespace Sys2Proof.Machine

variable {s t : State} {i : Instr} {w : Word} {b opc : Byte} {checks : List (Bool × Err)} {body : State}

/-! ## Command words -/

/-- Settles O1: a matching row holds the command's word on all 32 bits, and every command has its row. -/
theorem decodeIsTheOpcodeMap : Obligations.DecodeIsTheOpcodeMap := by
  unfold Obligations.DecodeIsTheOpcodeMap
  refine ⟨by decide, fun w i => ⟨eq_encode_of_decode, ?_⟩⟩
  rintro rfl
  exact decode_encode i

/-- Settles O3: the five commands decode from their words; the other words match no row. -/
theorem sampleWordsDecode : Obligations.SampleWordsDecode := by
  unfold Obligations.SampleWordsDecode
  exact ⟨decode_encode .clrerr, decode_encode .ldiv, decode_encode .pad, decode_encode .dec, decode_encode .encf,
    by decide⟩

/-! ## Illegal words -/

/-- A word is its two fields (R90). -/
theorem zeroField_append_opcField (w : Word) : zeroField w ++ opcField w = w :=
  (BitVec.extractLsb'_append_extractLsb'_eq_extractLsb' rfl).trans BitVec.extractLsb'_eq_self

/-- A word is a command's word exactly when bits 31:8 are zero and bits 7:0 are the opcode (R90). -/
theorem eq_encode_iff : w = encode i ↔ zeroField w = 0 ∧ opcField w = i.opcode := by
  constructor
  · rintro rfl
    cases i <;> exact ⟨rfl, rfl⟩
  · rintro ⟨hzero, hopc⟩
    rw [← zeroField_append_opcField w, hzero, hopc]
    rfl

/-- The opcodes of the map are those of the commands (R91). -/
theorem mem_opcodes_iff : b ∈ opcodeTable.map (fun r => r.instr.opcode) ↔ ∃ i : Instr, i.opcode = b := by
  rw [List.mem_map]
  constructor
  · rintro ⟨r, -, hr⟩
    exact ⟨r.instr, hr⟩
  · rintro ⟨i, hi⟩
    obtain ⟨r, hr, rfl⟩ := opcodeTable_complete i
    exact ⟨r, hr, hi⟩

/-- A word is illegal exactly when it is no command's word (R93). -/
theorem decode_error_iff : (∃ e, decode w = .error e) ↔ ∀ i, w ≠ encode i := by
  constructor
  · rintro ⟨e, he⟩ i rfl
    simp [decode_encode] at he
  · intro h
    cases hd : decode w with
    | ok i => exact absurd (eq_encode_of_decode hd) (h i)
    | error e => exact ⟨e, rfl⟩

/-- A word is illegal exactly when one of its two fields is (R93). -/
theorem decode_error_iff_fields :
    (∃ e, decode w = .error e) ↔
      zeroField w ≠ 0 ∨ opcField w ∉ opcodeTable.map (fun r => r.instr.opcode) := by
  simp only [decode_error_iff, ne_eq, eq_encode_iff, mem_opcodes_iff, not_and, not_exists, eq_comm (a := opcField w),
    imp_iff_not_or, forall_or_left]

/-- Settles O2: an illegal word fails in a field, and written to `CMD` it is a command whose one check fails. -/
theorem illegalWordsRaiseOrAreDropped : Obligations.IllegalWordsRaiseOrAreDropped := by
  unfold Obligations.IllegalWordsRaiseOrAreDropped
  intro w
  refine ⟨decode_error_iff_fields, fun e s he => ?_⟩
  rw [perform_cmd, issue_of_error he]
  exact ⟨fun h => congrArg _ (State.command_of_fail h rfl), fun h => congrArg _ (State.command_of_err h)⟩

/-! ## Reserved selectors -/

/-- The chaining commands refuse the reserved mode (R94, R233). -/
theorem exec_of_mode_reserved (h : s.err = none) (hm : s.mode = 7) (hi : i ∈ [Instr.enc, .dec, .encf, .decf]) :
    exec i s = .next (s.raise .cfg i.opcode) := by
  have hres : s.modeReserved = true := State.modeReserved_iff.2 hm
  simp only [List.mem_cons, List.not_mem_nil, or_false] at hi
  obtain rfl | rfl | rfl | rfl := hi <;> refine congrArg _ (State.command_of_fail h ?_)
  · simp [State.encChecks, hres]
  · simp [State.decChecks, hres]
  · simp [State.encfChecks, hres]
  · simp [State.decfChecks, hres]

/-- The padding commands refuse a reserved scheme (R94, R233). -/
theorem exec_of_pad_reserved (h : s.err = none) (hp : 5 ≤ s.pad.toNat) (hi : i ∈ [Instr.pad, .unpad, .encf, .decf]) :
    exec i s = .next (s.raise .cfg i.opcode) := by
  have hres : s.padReserved = true := State.padReserved_iff.2 hp
  simp only [List.mem_cons, List.not_mem_nil, or_false] at hi
  obtain rfl | rfl | rfl | rfl := hi <;> refine congrArg _ (State.command_of_fail h ?_)
  · simp [State.padChecks, hres]
  · simp [State.unpadChecks, hres]
  · simp [State.encfChecks, hres]
  · simp [State.decfChecks, hres]

/-! ## Selectors a command does not see -/

/-- `s` with another selector of the mode in `CTRL`. -/
def State.withMode (m : BitVec 3) (s : State) : State := { s with mode := m }

/-- `s` with another selector of the padding scheme in `CTRL`. -/
def State.withPad (p : BitVec 3) (s : State) : State := { s with pad := p }

/-- A command with the same checks commutes with a change of the state that keeps `ERR` and commutes with raising an error,
when its effect does. -/
theorem State.command_map {f : State → State} (herr : (f s).err = s.err)
    (hraise : ∀ e, (f s).raise e opc = f (s.raise e opc)) :
    (f s).command opc checks (f body) = f (s.command opc checks body) := by
  obtain ⟨h, hc⟩ | ⟨h, e, hf, hc⟩ | ⟨h, hf, hc⟩ := s.command_cases opc checks body <;> rw [hc]
  · exact State.command_of_err (herr ▸ h)
  · rw [State.command_of_fail (herr.trans h) hf, hraise]
  · exact State.command_of_pass (herr.trans h) hf

theorem State.command_withMode {m : BitVec 3} {effect : State} (heffect : effect = body.withMode m) :
    (s.withMode m).command opc checks effect = (s.command opc checks body).withMode m :=
  heffect ▸ State.command_map rfl fun _ => rfl

theorem State.command_withPad {p : BitVec 3} {effect : State} (heffect : effect = body.withPad p) :
    (s.withPad p).command opc checks effect = (s.command opc checks body).withPad p :=
  heffect ▸ State.command_map rfl fun _ => rfl

/-- The removal step does not see the mode (R131). -/
theorem State.removeStep_withMode (o : Byte) (p : Scheme) (m : BitVec 3) (s : State) :
    (s.withMode m).removeStep o p = (s.removeStep o p).withMode m := by
  have hdata : padRemove (s.withMode m).bsize p (s.withMode m).strict (s.withMode m).data =
    padRemove s.bsize p s.strict s.data := rfl
  unfold State.removeStep
  rw [hdata]
  cases padRemove s.bsize p s.strict s.data <;> rfl

theorem State.padEffect_withMode (env : Env) (m : BitVec 3) (s : State) :
    (s.withMode m).padEffect env = (s.padEffect env).withMode m := by
  have hsel : (s.withMode m).selScheme = s.selScheme := rfl
  unfold State.padEffect
  rw [hsel]
  cases s.selScheme <;> rfl

theorem State.unpadEffect_withMode (m : BitVec 3) (s : State) :
    (s.withMode m).unpadEffect = s.unpadEffect.withMode m := by
  have hsel : (s.withMode m).selScheme = s.selScheme := rfl
  unfold State.unpadEffect
  rw [hsel]
  cases s.selScheme with
  | none => rfl
  | some p => exact s.removeStep_withMode _ p m

/-- The chaining step of an encryption does not see the padding scheme (R167). -/
theorem State.encStep_withPad (env : Env) (m : Mode) (p : BitVec 3) (s : State) :
    (s.withPad p).encStep env m = (s.encStep env m).withPad p := by
  unfold State.encStep
  split <;> rfl

theorem State.encEffect_withPad (env : Env) (p : BitVec 3) (s : State) :
    (s.withPad p).encEffect env = (s.encEffect env).withPad p := by
  have hsel : (s.withPad p).selMode = s.selMode := rfl
  unfold State.encEffect
  rw [hsel]
  cases s.selMode with
  | none => rfl
  | some m => exact s.encStep_withPad env m p

theorem State.decEffect_withPad (env : Env) (p : BitVec 3) (s : State) :
    (s.withPad p).decEffect env = (s.decEffect env).withPad p := by
  have hsel : (s.withPad p).selMode = s.selMode := rfl
  unfold State.decEffect
  rw [hsel]
  cases s.selMode <;> rfl

/-- The commands that use no mode run the same whatever it is (R94). -/
theorem exec_withMode (hi : i ∉ [Instr.srst, .enc, .dec, .encf, .decf]) (h : exec i s = .next t) (m : BitVec 3) :
    exec i (s.withMode m) = .next (t.withMode m) := by
  cases i <;> obtain rfl := Host.Outcome.next.inj h
  case nop | clrerr => rfl
  case ldiv | start => exact congrArg Host.Outcome.next (State.command_withMode rfl)
  case pad => exact congrArg Host.Outcome.next (State.command_withMode (s.padEffect_withMode _ m))
  case unpad => exact congrArg Host.Outcome.next (State.command_withMode (s.unpadEffect_withMode m))
  all_goals simp at hi

/-- The commands that use no padding scheme run the same whatever it is (R94). -/
theorem exec_withPad (hi : i ∉ [Instr.srst, .pad, .unpad, .encf, .decf]) (h : exec i s = .next t) (p : BitVec 3) :
    exec i (s.withPad p) = .next (t.withPad p) := by
  cases i <;> obtain rfl := Host.Outcome.next.inj h
  case nop | clrerr => rfl
  case ldiv | start => exact congrArg Host.Outcome.next (State.command_withPad rfl)
  case enc => exact congrArg Host.Outcome.next (State.command_withPad (s.encEffect_withPad _ p))
  case dec => exact congrArg Host.Outcome.next (State.command_withPad (s.decEffect_withPad _ p))
  all_goals simp at hi

/-- `NOP`, `CLRERR`, `SRST`, `LDIV` and `START` do the same, the selectors apart, whatever both selectors are (R94). -/
theorem exec_of_no_selector (hi : i ∈ [Instr.nop, .clrerr, .srst, .ldiv, .start]) (h : exec i s = .next t)
    (m p : BitVec 3) :
    ∃ u, exec i ((s.withMode m).withPad p) = .next u ∧ (t.withMode 0).withPad 0 = (u.withMode 0).withPad 0 := by
  by_cases hsrst : i = .srst
  · subst hsrst
    obtain rfl := Host.Outcome.next.inj h
    exact ⟨_, rfl, rfl⟩
  · have hmode : i ∉ [Instr.srst, .enc, .dec, .encf, .decf] := by cases i <;> simp_all
    have hpad : i ∉ [Instr.srst, .pad, .unpad, .encf, .decf] := by cases i <;> simp_all
    exact ⟨_, exec_withPad hpad (exec_withMode hmode h m) p, rfl⟩

/-- Settles O13: a reserved selector fails the first check that reads it; nothing else of a command reads a selector that it
does not use. -/
theorem reservedSelectorsAreRefused : Obligations.ReservedSelectorsAreRefused := by
  unfold Obligations.ReservedSelectorsAreRefused
  refine fun s herr => ⟨fun hm i hi => exec_of_mode_reserved herr hm hi, fun hp i hi => exec_of_pad_reserved herr hp hi,
    fun i hi m p => ?_, fun i hi p => ?_, fun i hi m => ?_⟩ <;> obtain ⟨t, ht⟩ := exec_next i s
  · obtain ⟨u, hu, heq⟩ := exec_of_no_selector hi ht m p
    exact ⟨t, u, ht, hu, heq⟩
  · exact ⟨t, ht, exec_withPad (by cases i <;> simp_all) ht p⟩
  · exact ⟨t, ht, exec_withMode (by cases i <;> simp_all) ht m⟩

end Sys2Proof.Machine
end

section
/-! SUPPORT and PROOFS. What a padding appends: the pad lengths (R111) and the pad bytes (R114 to R117, R124). -/

namespace Sys2Proof.Machine

variable {B L k : Nat} {p : Scheme} {env : Env}

/-! ## Pad lengths -/

theorem Scheme.countBearing_iff : p.countBearing = true ↔ p = .ansi ∨ p = .pkcs7 ∨ p = .iso := by
  cases p <;> simp [Scheme.countBearing]

theorem padLen_of_counted (hp : p.countBearing = true) : padLen B p L = B - L % B := by
  obtain rfl | rfl | rfl := Scheme.countBearing_iff.1 hp <;> rfl

theorem padLen_zeros : padLen B .zeros L = if L % B = 0 then 0 else B - L % B := rfl

theorem add_sub_mod_mod_self (hB : 1 ≤ B) (L : Nat) : (L + (B - L % B)) % B = 0 := by
  have hlt : L % B < B := Nat.mod_lt L hB
  have hfill : L + (B - L % B) = B * (L / B) + B := by
    have := Nat.div_add_mod L B
    omega
  rw [hfill, Nat.mul_add_mod_self_left, Nat.mod_self]

/-- Padding reaches a multiple of `B` (R111). -/
theorem add_padLen_mod (hB : 1 ≤ B) (hnone : p = .none → L % B = 0) : (L + padLen B p L) % B = 0 := by
  cases p
  case none => exact hnone rfl
  case zeros =>
    rw [padLen_zeros]
    split_ifs with h
    · exact h
    · exact add_sub_mod_mod_self hB L
  all_goals exact add_sub_mod_mod_self hB L

/-- Settles O16: the table by cases on the scheme; a filled-up last block ends at a multiple of `B`. -/
theorem padLengthTable : Obligations.PadLengthTable := by
  unfold Obligations.PadLengthTable
  intro B L hB
  refine ⟨fun _ => rfl, fun h => if_pos h, fun h => if_neg h, ?_, fun p hp => ?_, fun p => add_padLen_mod hB⟩
  · rw [padLen_zeros]
    split_ifs <;> omega
  · have hc := Scheme.countBearing_iff.2 hp
    exact ⟨padLen_of_counted hc, padLen_pos hB hc, padLen_le⟩

/-! ## Pad bytes -/

/-- Only ISO padding draws, one byte less than it appends (R124). -/
theorem padDraws_eq (B : Nat) (p : Scheme) (L : Nat) : padDraws B p L = if p = .iso then padLen B p L - 1 else 0 := by
  cases p <;> rfl

theorem drawn_eq_map_range (env : Env) (k n : Nat) : drawn env k n = (List.range n).map fun j => env.draw (k + j) :=
  List.ext_getElem (by simp) fun j hj _ => by simp [getElem_drawn]

/-- The count of a count-bearing padding fits a byte when `B` does (R113). -/
theorem toNat_ofNat_padLen (hB : B ≤ 255) : (BitVec.ofNat 8 (padLen B p L)).toNat = padLen B p L := by
  have hle : padLen B p L ≤ B := padLen_le
  rw [BitVec.toNat_ofNat, Nat.mod_eq_of_lt (by omega)]

theorem length_padApply (hB : 1 ≤ B) (s : List Byte) :
    (padApply env k B p s).length = s.length + padLen B p s.length := by
  rw [padApply, List.length_append, length_padBytes hB]

theorem padApply_none (s : List Byte) : padApply env k B .none s = s := List.append_nil s

/-- Settles O17: the definition read per scheme; the count is the byte that holds the pad length. -/
theorem padApplyBytes : Obligations.PadApplyBytes := by
  unfold Obligations.PadApplyBytes
  intro env k B s hB
  refine ⟨fun _ => padApply_none s, rfl, fun hB' => ⟨BitVec.ofNat 8 (padLen B .ansi s.length), ?_⟩, fun p hp => ?_⟩
  · rw [toNat_ofNat_padLen hB', List.append_assoc, List.append_assoc, ← drawn_eq_map_range]
    exact ⟨rfl, rfl, rfl, rfl, rfl⟩
  · rw [padDraws_eq, if_neg hp]

theorem getElem_padBytes_zeros {j : Nat} (h : j < (padBytes env k B .zeros L).length) :
    (padBytes env k B .zeros L)[j] = 0x00 := List.getElem_replicate h

/-- The bytes of ANSI padding before the count are zero (R115). -/
theorem getElem_padBytes_ansi {j : Nat} (hj : j < padLen B .ansi L - 1) (h : j < (padBytes env k B .ansi L).length) :
    (padBytes env k B .ansi L)[j] = 0x00 :=
  (List.getElem_append_left (by simpa using hj)).trans (List.getElem_replicate _)

theorem getElem_padBytes_pkcs7 {j : Nat} (h : j < (padBytes env k B .pkcs7 L).length) :
    (padBytes env k B .pkcs7 L)[j] = BitVec.ofNat 8 (padLen B .pkcs7 L) := List.getElem_replicate h

/-- The bytes of ISO padding before the count are drawn in increasing offset order (R117, R124). -/
theorem getElem_padBytes_iso {j : Nat} (hj : j < padLen B .iso L - 1) (h : j < (padBytes env k B .iso L).length) :
    (padBytes env k B .iso L)[j] = env.draw (k + j) :=
  (List.getElem_append_left (by simpa [padDraws] using hj)).trans (getElem_drawn _ _ _)

/-- The last byte of a count-bearing padding is the count. -/
theorem getElem_padBytes_last (hp : p.countBearing = true) (h : padLen B p L - 1 < (padBytes env k B p L).length) :
    (padBytes env k B p L)[padLen B p L - 1] = BitVec.ofNat 8 (padLen B p L) := by
  obtain rfl | rfl | rfl := Scheme.countBearing_iff.1 hp
  · exact List.getElem_concat_length (by simp) h
  · exact getElem_padBytes_pkcs7 h
  · exact List.getElem_concat_length (by simp [padDraws]) h

end Sys2Proof.Machine
end

section
/-! SUPPORT and PROOFS. What a removal answers: the zero tail (R119), the validity of a padding (R120 to R123), the policy
(R125), and the laws that tie removal to padding (R126). -/

namespace Sys2Proof.Machine

variable {B k : Nat} {p : Scheme} {strict : Bool} {env : Env} {s : List Byte}

/-! ## The zero tail -/

theorem padRemove_none : padRemove B .none strict s = .ok (s, false) := rfl

theorem padRemove_zeros : padRemove B .zeros strict s = .ok (stripZeros s, false) := rfl

/-- The removal of Zeros drops bytes from the end for as long as they are `0x00` (R119). -/
theorem stripZeros_eq_rdropWhile (s : List Byte) : stripZeros s = s.rdropWhile (· == 0x00) := by
  induction s using List.reverseRecOn with
  | nil => rfl
  | append_singleton s x ih =>
    by_cases hx : x = 0x00
    · rw [List.rdropWhile_concat_pos _ _ _ (by simpa using hx), ← ih, ← stripZeros_append, hx]
      simp [stripZeros]
    · rw [List.rdropWhile_concat_neg _ _ _ (by simpa using hx)]
      clear ih
      induction s with
      | nil => exact if_neg hx
      | cons y s ih =>
        rw [List.cons_append, stripZeros, ih]
        cases s <;> rfl

theorem getD_length_sub_one {s : List Byte} (hs : s ≠ []) : s.getD (s.length - 1) 0 = s.getLast hs := by
  rw [List.getLast_eq_getElem, List.getD_eq_getElem]

/-- Nothing is stripped exactly when there is nothing or the last byte is not zero (R126). -/
theorem stripZeros_eq_self_iff : stripZeros s = s ↔ s = [] ∨ s.getD (s.length - 1) 0 ≠ 0x00#8 := by
  rw [stripZeros_eq_rdropWhile, List.rdropWhile_eq_self_iff]
  by_cases hs : s = []
  · simp [hs]
  · rw [getD_length_sub_one hs]
    simp [hs]

theorem stripZeros_prefix (s : List Byte) : stripZeros s <+: s :=
  stripZeros_eq_rdropWhile s ▸ List.rdropWhile_prefix _ s

theorem getD_of_stripZeros_le {s : List Byte} {j : Nat} (hj : (stripZeros s).length ≤ j) (hlt : j < s.length) :
    s.getD j 0 = 0x00#8 := by
  have hsplit : stripZeros s ++ s.rtakeWhile (· == 0x00) = s := by
    rw [stripZeros_eq_rdropWhile, List.rdropWhile_append_rtakeWhile]
  rw [← hsplit, List.length_append] at hlt
  rw [← hsplit, List.getD_append_right _ _ _ _ hj, List.getD_eq_getElem _ _ (by omega)]
  exact eq_of_beq (List.mem_rtakeWhile_imp (p := (· == 0x00)) (List.getElem_mem _))

/-- The byte before the cut is not zero. -/
theorem getD_stripZeros_sub_one_ne (h : stripZeros s ≠ []) : s.getD ((stripZeros s).length - 1) 0 ≠ 0x00#8 := by
  have hpos := List.length_pos_iff.2 h
  have hself := (stripZeros_eq_self_iff.1 (stripZeros_idem s)).resolve_left h
  obtain ⟨t, ht⟩ := stripZeros_prefix s
  rwa [← ht, List.getD_append _ _ _ _ (by rw [ht]; omega), ht]

/-- Settles O18: the cut is at the length of what remains; a smaller one would have the non-zero byte before it behind it. -/
theorem zerosRemovalCutsTheZeroTail : Obligations.ZerosRemovalCutsTheZeroTail := by
  unfold Obligations.ZerosRemovalCutsTheZeroTail
  intro B strict s
  refine ⟨(stripZeros s).length, length_stripZeros_le s, ?_, fun k => getD_of_stripZeros_le, fun m' hm' => ?_⟩
  · rw [padRemove_zeros, ← List.prefix_iff_eq_take.1 (stripZeros_prefix s)]
  · by_contra hlt
    have hne : stripZeros s ≠ [] := List.length_pos_iff.1 (by omega)
    have hle := length_stripZeros_le s
    exact getD_stripZeros_sub_one_ne hne (hm' _ (by omega) (by omega))

/-! ## Validity -/

theorem padCount_eq_getD (s : List Byte) : padCount s = (s.getD (s.length - 1) 0).toNat := by
  rw [padCount, List.getLastD_eq_getLast?, List.getLast?_eq_getElem?, List.getD_eq_getElem?_getD]

/-- The range check of R120. -/
theorem countInRange_iff : countInRange B s = true ↔ 1 ≤ padCount s ∧ padCount s ≤ B ∧ padCount s ≤ s.length := by
  simp [countInRange, and_assoc]

/-- A test of the `n` bytes from `a` on, byte by byte. -/
theorem all_take_drop_iff {q : Byte → Bool} {a n : Nat} (h : a + n ≤ s.length) :
    ((s.drop a).take n).all q = true ↔ ∀ j, a ≤ j → j < a + n → q (s.getD j 0) = true := by
  simp only [List.all_eq_true, List.mem_take_iff_getElem, List.getElem_drop]
  constructor
  · intro hall j ha hj
    rw [List.getD_eq_getElem _ _ (by omega)]
    exact hall _ ⟨j - a, by simp; omega, by congr 1; omega⟩
  · rintro hall _ ⟨j, hj, rfl⟩
    simp only [List.length_drop] at hj
    have := hall (a + j) (by omega) (by omega)
    rwa [List.getD_eq_getElem _ _ (by omega)] at this

theorem padValid_ansi_iff :
    padValid B .ansi s = true ↔ (1 ≤ padCount s ∧ padCount s ≤ B ∧ padCount s ≤ s.length) ∧
      ∀ j, s.length - padCount s ≤ j → j < s.length - 1 → s.getD j 0 = 0x00#8 := by
  rw [padValid, Bool.and_eq_true, countInRange_iff]
  refine and_congr_right fun ⟨hpos, _, hle⟩ => ?_
  rw [all_take_drop_iff (by omega), show s.length - padCount s + (padCount s - 1) = s.length - 1 by omega]
  simp

theorem padValid_pkcs7_iff :
    padValid B .pkcs7 s = true ↔ (1 ≤ padCount s ∧ padCount s ≤ B ∧ padCount s ≤ s.length) ∧
      ∀ j, s.length - padCount s ≤ j → j < s.length → (s.getD j 0).toNat = padCount s := by
  have hcount : (BitVec.ofNat 8 (padCount s)).toNat = padCount s :=
    BitVec.toNat_ofNat _ _ ▸ Nat.mod_eq_of_lt (BitVec.isLt _)
  rw [padValid, Bool.and_eq_true, countInRange_iff]
  refine and_congr_right fun ⟨_, _, hle⟩ => ?_
  have htail : s.drop (s.length - padCount s) = (s.drop (s.length - padCount s)).take (padCount s) := by
    rw [List.take_of_length_le (by simp; omega)]
  rw [htail, all_take_drop_iff (by omega), Nat.sub_add_cancel hle]
  simp [BitVec.toNat_eq, hcount]

/-- Settles O19: the last byte is the count, and the tests of the pad bytes are read byte by byte. -/
theorem validPaddingPerScheme : Obligations.ValidPaddingPerScheme := by
  unfold Obligations.ValidPaddingPerScheme
  intro B s _
  simp only [← padCount_eq_getD]
  exact ⟨padValid_ansi_iff, padValid_pkcs7_iff, countInRange_iff⟩

/-! ## The policy -/

theorem padRemove_of_counted (hp : p.countBearing = true) (strict : Bool) (s : List Byte) :
    padRemove B p strict s =
      if padValid B p s then .ok (s.take (s.length - padCount s), false)
      else if strict then .error .pad else .ok (s, true) := by
  obtain rfl | rfl | rfl := Scheme.countBearing_iff.1 hp <;> rfl

theorem padRemove_of_valid (hp : p.countBearing = true) (hv : padValid B p s = true) (strict : Bool) :
    padRemove B p strict s = .ok (s.take (s.length - padCount s), false) := by
  rw [padRemove_of_counted hp, if_pos hv]

theorem padRemove_lenient_of_invalid (hp : p.countBearing = true) (hv : padValid B p s = false) :
    padRemove B p false s = .ok (s, true) := by
  rw [padRemove_of_counted hp, hv]
  rfl

theorem padRemove_strict_of_invalid (hp : p.countBearing = true) (hv : padValid B p s = false) :
    padRemove B p true s = .error .pad := by
  rw [padRemove_of_counted hp, hv]
  rfl

/-- Settles O20: the three arms of R125, with the count as the last byte. -/
theorem removalFollowsThePolicy : Obligations.RemovalFollowsThePolicy := by
  unfold Obligations.RemovalFollowsThePolicy
  refine fun B strict s => ⟨padRemove_none, fun p hp _ => ?_⟩
  have hc := Scheme.countBearing_iff.2 hp
  rw [← padCount_eq_getD]
  refine ⟨fun hv => padRemove_of_valid hc hv strict, ?_, ?_⟩
  · rintro hv rfl
    exact padRemove_lenient_of_invalid hc hv
  · rintro hv rfl
    exact padRemove_strict_of_invalid hc hv

/-! ## The laws -/

theorem padBytes_ne_nil (hB : 1 ≤ B) (hp : p.countBearing = true) (L : Nat) : padBytes env k B p L ≠ [] :=
  List.length_pos_iff.1 ((length_padBytes hB).symm ▸ padLen_pos hB hp)

/-- The count that a padding stores is its length. -/
theorem padCount_padApply (hB : 1 ≤ B) (hB' : B ≤ 255) (hp : p.countBearing = true) (s : List Byte) :
    padCount (padApply env k B p s) = padLen B p s.length := by
  have hpos : 1 ≤ padLen B p s.length := padLen_pos hB hp
  have hlen := length_padBytes (env := env) (k := k) (p := p) (L := s.length) hB
  rw [padApply, padCount_append _ (padBytes_ne_nil hB hp _), padCount_eq_getD, List.getD_eq_getElem _ _ (by omega)]
  simp only [hlen, getElem_padBytes_last hp, toNat_ofNat_padLen hB']

theorem drop_padApply (hB : 1 ≤ B) (s : List Byte) :
    (padApply env k B p s).drop ((padApply env k B p s).length - padLen B p s.length) =
      padBytes env k B p s.length := by
  rw [length_padApply hB, Nat.add_sub_cancel, padApply, List.drop_left]

/-- What a count-bearing padding appends is a valid padding. -/
theorem padValid_padApply (hB : 1 ≤ B) (hB' : B ≤ 255) (hp : p.countBearing = true) (s : List Byte) :
    padValid B p (padApply env k B p s) = true := by
  have hcount := padCount_padApply (env := env) (k := k) hB hB' hp s
  have hrange : countInRange B (padApply env k B p s) = true :=
    countInRange_iff.2 (by rw [hcount, length_padApply hB]; exact ⟨padLen_pos hB hp, padLen_le, Nat.le_add_left _ _⟩)
  obtain rfl | rfl | rfl := Scheme.countBearing_iff.1 hp
  · rw [padValid, hrange, hcount, drop_padApply hB]
    simp [padBytes]
  · rw [padValid, hrange, hcount, drop_padApply hB]
    simp [padBytes]
  · exact hrange

/-- Removing a count-bearing padding gives back the data, whatever was drawn and whatever the policy (R126). -/
theorem padRemove_padApply (hB : 1 ≤ B) (hB' : B ≤ 255) (hp : p.countBearing = true) (strict : Bool) (s : List Byte) :
    padRemove B p strict (padApply env k B p s) = .ok (s, false) := by
  rw [padRemove_of_valid hp (padValid_padApply hB hB' hp s), padCount_padApply hB hB' hp, length_padApply hB,
    Nat.add_sub_cancel, padApply, List.take_left]

theorem stripZeros_replicate (n : Nat) : stripZeros (List.replicate n 0x00) = [] := by
  rw [stripZeros_eq_rdropWhile]
  simp

theorem stripZeros_padApply (s : List Byte) : stripZeros (padApply env k B .zeros s) = stripZeros s := by
  rw [padApply, padBytes, ← stripZeros_append, stripZeros_replicate, List.append_nil]

/-- A last byte 1 is a valid PKCS7 padding (R126). -/
theorem padValid_pkcs7_of_padCount_one (hB : 1 ≤ B) (hs : s ≠ []) (hc : padCount s = 1) :
    padValid B .pkcs7 s = true := by
  have hpos := List.length_pos_iff.2 hs
  refine padValid_pkcs7_iff.2 ⟨by omega, fun j hj hlt => ?_⟩
  rw [show j = s.length - 1 by omega, ← padCount_eq_getD]

/-- Settles O21: the pad lengths, the round trip of a valid padding, the zero tail, and two tails valid by chance. -/
theorem paddingLaws : Obligations.PaddingLaws := by
  unfold Obligations.PaddingLaws
  intro env k B strict s hB
  refine ⟨fun p hnone _ => ⟨length_padApply hB s, ?_⟩,
    fun p hp hB' => padRemove_padApply hB hB' (Scheme.countBearing_iff.2 hp) strict s,
    ⟨?_, stripZeros_eq_self_iff⟩, fun _ => ?_, fun hs hlast => ?_, fun hpos hle hlen => ?_⟩
  · rw [length_padApply hB]
    exact add_padLen_mod hB hnone
  · rw [padRemove_zeros, stripZeros_padApply]
  · rw [padRemove_none, padApply_none]
  · have hc : padCount s = 1 := by rw [padCount_eq_getD, hlast]; rfl
    rw [padRemove_of_valid rfl (padValid_pkcs7_of_padCount_one hB hs hc), hc]
  · rw [← padCount_eq_getD] at *
    have hv : padValid B .iso s = true := countInRange_iff.2 ⟨hpos, hle, hlen⟩
    exact padRemove_of_valid rfl hv strict

end Sys2Proof.Machine
end

section
/-! SUPPORT and PROOFS. The commands `PAD` (R130) and `UNPAD` (R131). -/

namespace Sys2Proof.Machine

variable {s : State} {p : Scheme} {env : Env} {opc : Byte} {a k : Nat}

/-! ## PAD -/

/-- `PAD` with no failing check is the padding step (R130). -/
theorem exec_pad_of_pass (herr : s.err = none) (hp : Scheme.ofCode s.pad = some p)
    (hf : firstFailing s.padChecks = none) : exec .pad s = .next (s.padStep Config.env p) :=
  congrArg _ ((State.command_of_pass herr hf).trans (s.padEffect_of Config.env hp))

theorem State.padStep_buf_of_outside (hB : 1 ≤ s.bsize)
    (ha : a < s.len.toNat ∨ s.len.toNat + padLen s.bsize p s.len.toNat ≤ a) :
    (s.padStep env p).buf.read a = s.buf.read a :=
  Memory.read_writeN_other (by rwa [length_padBytes hB]) s.buf

/-- The padding step writes the pad bytes behind the data (R130). -/
theorem State.padStep_buf_of_padding (hwf : s.buf.wf) (hk : k < (padBytes env s.draws s.bsize p s.len.toNat).length) :
    (s.padStep env p).buf.read (s.len.toNat + k) = (padBytes env s.draws s.bsize p s.len.toNat)[k] :=
  Memory.read_writeN hwf _ hk

/-- The last byte that a count-bearing padding writes is the count (R115 to R117). -/
theorem State.padStep_buf_count (hwf : s.buf.wf) (hB : 1 ≤ s.bsize) (hB' : s.bsize ≤ 255)
    (hp : p.countBearing = true) :
    ((s.padStep env p).buf.read (s.len.toNat + padLen s.bsize p s.len.toNat - 1)).toNat =
      padLen s.bsize p s.len.toNat := by
  have hpos : 1 ≤ padLen s.bsize p s.len.toNat := padLen_pos hB hp
  rw [Nat.add_sub_assoc hpos, State.padStep_buf_of_padding hwf (by rw [length_padBytes hB]; omega),
    getElem_padBytes_last hp, toNat_ofNat_padLen hB']

/-- With no byte to append the padding step changes nothing. -/
theorem State.padStep_of_padLen_zero (hB : 1 ≤ s.bsize) (hn : padLen s.bsize p s.len.toNat = 0) :
    s.padStep env p = s := by
  have hbytes : padBytes env s.draws s.bsize p s.len.toNat = [] :=
    List.eq_nil_of_length_eq_zero ((length_padBytes hB).trans hn)
  simp [State.padStep_eq, padDraws_eq, hbytes, hn, Memory.writeN]

/-- Settles O22: the command is the padding step, which writes the pad bytes of the scheme behind the data. -/
theorem padWritesThePadding : Obligations.PadWritesThePadding := by
  unfold Obligations.PadWritesThePadding
  intro s p hI herr hp hB' hlen hnone hfit L n
  obtain ⟨hinst, -, ⟨hwf, -⟩, -⟩ := hI
  have hB : 1 ≤ s.bsize := hinst.1
  have hexec := exec_pad_of_pass herr hp
    (State.padChecks_pass hp (fun hc => by have := hB' hc; omega) hlen hnone hfit)
  have hbytes : (padBytes Config.env s.draws s.bsize p L).length = n := length_padBytes hB
  have hread : ∀ k (hk : k < n), (s.padStep Config.env p).buf.read (L + k) =
      (padBytes Config.env s.draws s.bsize p L)[k] := fun k hk => State.padStep_buf_of_padding hwf _
  refine ⟨(s.padStep Config.env p).buf, ?_, hinst.toNat_ofNat hfit, fun a => State.padStep_buf_of_outside hB, ?_, ?_, ?_,
    ?_, fun hn => ?_⟩
  · rw [hexec, ← padDraws_eq, State.padStep_eq]
  · rintro rfl k hk
    rw [hread k hk, getElem_padBytes_zeros]
  · rintro rfl
    refine ⟨fun k hk => ?_, State.padStep_buf_count hwf hB (hB' rfl) rfl⟩
    rw [hread k (by omega), getElem_padBytes_ansi hk]
  · rintro rfl k hk
    rw [hread k hk, getElem_padBytes_pkcs7, toNat_ofNat_padLen (hB' rfl)]
  · rintro rfl
    refine ⟨fun k hk => ?_, State.padStep_buf_count hwf hB (hB' rfl) rfl⟩
    rw [hread k (by omega), getElem_padBytes_iso hk]
    rfl
  · rw [hexec, State.padStep_of_padLen_zero hB hn]

/-! ## UNPAD -/

/-- `UNPAD` with no failing check is the removal step (R131). -/
theorem exec_unpad_of_pass (herr : s.err = none) (hp : Scheme.ofCode s.pad = some p)
    (hf : firstFailing s.unpadChecks = none) : exec .unpad s = .next (s.removeStep Instr.unpad.opcode p) :=
  congrArg _ ((State.command_of_pass herr hf).trans (State.unpadEffect_of hp))

/-- A removal that answers data sets `LEN` and `PADBAD` (R131, R132). -/
theorem State.removeStep_of_ok {d : List Byte} {bad : Bool} (h : padRemove s.bsize p s.strict s.data = .ok (d, bad)) :
    s.removeStep opc p = { s with len := BitVec.ofNat 21 d.length, padbad := bad } := by
  rw [State.removeStep, h]
  rfl

/-- A removal that answers an error raises it (R241). -/
theorem State.removeStep_of_error {e : Err} (h : padRemove s.bsize p s.strict s.data = .error e) :
    s.removeStep opc p = s.raise e opc := by
  rw [State.removeStep, h]

theorem State.padCount_data (hlen : s.len ≠ 0) : padCount s.data = (s.buf.read (s.len.toNat - 1)).toNat := by
  have hpos : s.len.toNat ≠ 0 := by simpa [BitVec.toNat_eq] using hlen
  rw [padCount_eq_getD, List.getD_eq_getElem _ _ (by rw [State.length_data]; omega)]
  simp [State.data, Memory.getElem_readN]

/-- Settles O23: the command is the removal step, which acts on the answer of the removal. -/
theorem unpadRemovesThePadding : Obligations.UnpadRemovesThePadding := by
  unfold Obligations.UnpadRemovesThePadding
  intro s p herr hp hw hlen hal d c
  rw [exec_unpad_of_pass herr hp (State.unpadChecks_pass hp hw hlen hal)]
  refine ⟨?_, ?_, fun hc hv => ?_, fun hc hv hs => ?_, fun hc hv hs => ?_⟩
  · rintro rfl
    rw [State.removeStep_of_ok padRemove_none]
    simp
  · rintro rfl
    rw [State.removeStep_of_ok padRemove_zeros]
    rfl
  · rw [State.removeStep_of_ok (padRemove_of_valid (s := s.data) hc hv s.strict), State.padCount_data (hw hc).2]
    simp [c]
  · rw [State.removeStep_of_ok (hs ▸ padRemove_lenient_of_invalid hc hv)]
    simp [d]
  · rw [State.removeStep_of_error (hs ▸ padRemove_strict_of_invalid hc hv)]
    rfl

end Sys2Proof.Machine
end

section
/-! SUPPORT and PROOFS. The block steps (R152 to R158, R161), and runs of them: split, counted, and blind to what a mode does
not use (R157, R160, R163). -/

namespace Sys2Proof.Machine

variable {env : Env} {m : Mode} {f : Chain → Block → Block → Block × Chain} {v : Block}

/-! ## Block steps -/

/-- Settles O24: the rules' table, mode by mode, is the definition of the block steps. -/
theorem blockStepPerMode : Obligations.BlockStepPerMode := by
  unfold Obligations.BlockStepPerMode
  exact fun env cv pv x δ => ⟨⟨rfl, rfl⟩, ⟨rfl, rfl⟩, ⟨rfl, rfl⟩, ⟨rfl, rfl⟩, ⟨rfl, rfl⟩, ⟨rfl, rfl⟩, rfl, rfl⟩

/-- Settles O25: in every mode the multiplexers pick the operands of that mode's block step. -/
theorem dataPathTableAgrees : Obligations.DataPathTableAgrees := by
  unfold Obligations.DataPathTableAgrees
  intro env m c x δ
  cases m <;> exact ⟨rfl, rfl⟩

/-- Outside RandomDelta a block step does not see the delta (R152 to R157). -/
theorem blockSteps_ignore_delta (env : Env) (hm : m ≠ .rd) (c : Chain) (x δ δ' : Block) :
    encBlock env m c x δ = encBlock env m c x δ' ∧ decBlock env m c x δ = decBlock env m c x δ' := by
  cases m
  case rd => exact absurd rfl hm
  all_goals exact ⟨rfl, rfl⟩

/-- In ECB and RandomDelta the output of a block step does not see the chain state (R152, R158). -/
theorem blockSteps_ignore_chain (env : Env) (hm : m = .ecb ∨ m = .rd) (c c' : Chain) (x δ : Block) :
    (encBlock env m c x δ).1 = (encBlock env m c' x δ).1 ∧ (decBlock env m c x δ).1 = (decBlock env m c' x δ).1 := by
  obtain rfl | rfl := hm <;> exact ⟨rfl, rfl⟩

/-! ## Runs -/

/-- A run over two sequences is two runs, the second from the state the first ends in (R160). -/
theorem chainRun_append (f : Chain → Block → Block → Block × Chain) (c : Chain) (ins ins' : List (Block × Block)) :
    chainRun f c (ins ++ ins') =
      ((chainRun f c ins).1 ++ (chainRun f (chainRun f c ins).2 ins').1, (chainRun f (chainRun f c ins).2 ins').2) := by
  induction ins generalizing c with
  | nil => rfl
  | cons q ins ih => simp [chainRun_cons f c q.1 q.2, ih]

/-- Settles O28: both directions are runs of a block step. -/
theorem chainingContinuesAcrossASplit : Obligations.ChainingContinuesAcrossASplit := by
  unfold Obligations.ChainingContinuesAcrossASplit
  exact fun env m c ins ins' => ⟨chainRun_append _ c ins ins', chainRun_append _ c ins ins'⟩

/-- A run of steps that do not see the delta depends on the input blocks only. -/
theorem chainRun_congr_inputs (hf : ∀ c x δ δ', f c x δ = f c x δ') (c : Chain) {ins ins' : List (Block × Block)}
    (h : ins.map Prod.fst = ins'.map Prod.fst) : chainRun f c ins = chainRun f c ins' := by
  induction ins generalizing c ins' with
  | nil =>
    obtain rfl : ins' = [] := by simpa using h.symm
    rfl
  | cons q ins ih =>
    obtain _ | ⟨q', ins'⟩ := ins'
    · simp at h
    obtain ⟨hx, hrest⟩ := List.cons.inj h
    rw [chainRun_cons f c q.1 q.2, chainRun_cons f c q'.1 q'.2, ← hx, hf c q.1 q'.2 q.2, ih _ hrest]

/-- A run of steps that keep the chain state maps each block by itself. -/
theorem chainRun_eq_map {c : Chain} (hf : ∀ x δ, (f c x δ).2 = c) (ins : List (Block × Block)) :
    chainRun f c ins = (ins.map fun q => (f c q.1 q.2).1, c) := by
  induction ins with
  | nil => rfl
  | cons q ins ih => rw [chainRun_cons f c q.1 q.2, hf, ih, List.map_cons]

/-- A run of steps that keep the chain state and whose outputs do not see it ends where it starts, and gives the same output
from every start. -/
theorem chainRun_ignores_chain (hkeep : ∀ c x δ, (f c x δ).2 = c) (hout : ∀ c c' x δ, (f c x δ).1 = (f c' x δ).1)
    (c c' : Chain) (ins : List (Block × Block)) :
    (chainRun f c ins).1 = (chainRun f c' ins).1 ∧ (chainRun f c ins).2 = c := by
  rw [chainRun_eq_map (hkeep c), chainRun_eq_map (hkeep c')]
  exact ⟨List.map_congr_left fun q _ => hout c c' q.1 q.2, rfl⟩

/-- Settles O31: what no block step of a mode sees, no run of it sees. -/
theorem deltasAndChainOnlyWhereUsed : Obligations.DeltasAndChainOnlyWhereUsed := by
  unfold Obligations.DeltasAndChainOnlyWhereUsed
  refine fun env m c c' ins ins' => ⟨fun hm h => ⟨?_, ?_⟩, fun hm => ?_⟩
  · exact chainRun_congr_inputs (fun c x δ δ' => (blockSteps_ignore_delta env hm c x δ δ').1) c h
  · exact chainRun_congr_inputs (fun c x δ δ' => (blockSteps_ignore_delta env hm c x δ δ').2) c h
  · obtain ⟨henc, henc'⟩ := chainRun_ignores_chain (fun c x δ => (blockSteps_keep_chain env hm c x δ).1)
      (fun c c' x δ => (blockSteps_ignore_chain env hm c c' x δ).1) c c' ins
    obtain ⟨hdec, hdec'⟩ := chainRun_ignores_chain (fun c x δ => (blockSteps_keep_chain env hm c x δ).2)
      (fun c c' x δ => (blockSteps_ignore_chain env hm c c' x δ).2) c c' ins
    exact ⟨henc, henc', hdec, hdec'⟩

/-! ## The counter -/

/-- The counter of block `i` of a run that starts at the counter `v` (R163). -/
def counterAt (v : Block) (i : Nat) : Block := beBytes v.length ((intBe v + i) % 256 ^ v.length)

theorem counterAt_zero (v : Block) : counterAt v 0 = v := by
  rw [counterAt, Nat.add_zero, Nat.mod_eq_of_lt (intBe_lt v), beBytes_intBe]

/-- The counter after the one of block `i` is the one of block `i + 1` (R159). -/
theorem incBlock_counterAt (v : Block) (i : Nat) : incBlock (counterAt v i) = counterAt v (i + 1) := by
  rw [incBlock, counterAt, intBe_beBytes, length_beBytes, Nat.mod_mod, Nat.mod_add_mod, Nat.add_assoc, counterAt]

/-- A CTR run from the counter of block `k` gives block `i` the counter of block `k + i` (R157, R163). -/
theorem chainEnc_ctr (env : Env) (v pv : Block) (k : Nat) (ins : List (Block × Block)) :
    chainEnc env .ctr ⟨counterAt v k, pv⟩ ins =
      ((ins.zipIdx k).map fun p => xorBlock p.1.1 (env.E (counterAt v p.2)), ⟨counterAt v (k + ins.length), pv⟩) := by
  induction ins generalizing k with
  | nil => rfl
  | cons q ins ih =>
    have hstep : encBlock env .ctr ⟨counterAt v k, pv⟩ q.1 q.2 =
        (xorBlock q.1 (env.E (counterAt v k)), ⟨counterAt v (k + 1), pv⟩) := by rw [← incBlock_counterAt]; rfl
    unfold chainEnc at ih ⊢
    rw [chainRun_cons _ _ q.1 q.2, hstep, ih, List.zipIdx_cons, List.map_cons, List.length_cons, Nat.add_assoc,
      Nat.add_comm 1]

/-- Settles O27: the run from counter 0 of the start value; encryption and decryption have the same block step. -/
theorem ctrCounterOfEachBlock : Obligations.CtrCounterOfEachBlock := by
  unfold Obligations.CtrCounterOfEachBlock
  refine fun env c ins => ⟨?_, rfl⟩
  have h := chainEnc_ctr env c.cv c.pv 0 ins
  rwa [counterAt_zero, Nat.zero_add] at h

end Sys2Proof.Machine
end

section
/-! PROOFS. The IV and the chain: `LDIV` (R165), `START` (R166), and the IV under the other commands (R171). -/

namespace Sys2Proof.Machine

variable {s t : State}

/-- Settles O14: the two checks of `LDIV` in their order, then its effect. -/
theorem ldivLoadsTheIv : Obligations.LdivLoadsTheIv := by
  unfold Obligations.LdivLoadsTheIv
  refine ⟨decode_encode .ldiv, fun s herr => ⟨fun hlen hcap => ?_, fun hover => ?_, fun hle hne => ?_⟩⟩
  · have hf : firstFailing s.ldivChecks = none := by simp [State.ldivChecks, State.lenOver, hlen, hcap]
    rw [← Memory.readN_eq_map_range]
    exact congrArg _ (State.command_of_pass herr hf)
  · have hf : firstFailing s.ldivChecks = some .len := by simp [State.ldivChecks, hover]
    exact congrArg _ (State.command_of_fail herr hf)
  · have hf : firstFailing s.ldivChecks = some .ivlen := by simp [State.ldivChecks, State.lenOver, hle, hne]
    exact congrArg _ (State.command_of_fail herr hf)

/-- Settles O15: the one check of `START`, then its effect. -/
theorem startCopiesTheIv : Obligations.StartCopiesTheIv := by
  unfold Obligations.StartCopiesTheIv
  refine ⟨decode_encode .start, fun s herr => ⟨fun hivv => ?_, fun hivv => ?_⟩⟩
  · have hf : firstFailing s.startChecks = none := by simp [State.startChecks, hivv]
    exact congrArg _ (State.command_of_pass herr hf)
  · have hf : firstFailing s.startChecks = some .iv := by simp [State.startChecks, hivv]
    exact congrArg _ (State.command_of_fail herr hf)

/-- The `IV` window shows the IV and depends on nothing else but `B` (R69). -/
theorem State.winValue_iv_congr (hB : t.bsize = s.bsize) (hiv : t.iv = s.iv) (k : Nat) :
    t.winValue .iv k = s.winValue .iv k := by
  have hsize : t.spaceSize .iv = s.spaceSize .iv := hB
  have hbyte : t.spaceByte .iv k = s.spaceByte .iv k := congrArg (List.getD · k 0) hiv
  rw [State.winValue, State.winValue, hsize, hbyte]

/-- No sequence of commands without `LDIV` writes `B` or the IV (R21). -/
theorem CommandsFrom.iv {is : List Instr} (his : .ldiv ∉ is) (h : CommandsFrom is s t) :
    t.bsize = s.bsize ∧ t.iv = s.iv := by
  induction is generalizing s with
  | nil => exact ⟨congrArg _ h.symm, congrArg _ h.symm⟩
  | cons i is ih =>
    obtain ⟨hi, his⟩ := List.ne_and_not_mem_of_not_mem_cons his
    obtain ⟨u, hu, hrest⟩ := h
    obtain ⟨hB, hiv⟩ := ih his hrest
    exact ⟨hB.trans (exec_result hu).constants.1, hiv.trans ((exec_result hu).iv hi.symm)⟩

/-- Settles O43: `LDIV`, the one command that writes the IV, is not among the named ones. -/
theorem transformsNeverWriteTheIv : Obligations.TransformsNeverWriteTheIv := by
  unfold Obligations.TransformsNeverWriteTheIv
  intro is s t his h
  have hldiv : .ldiv ∉ is := fun hmem => by simpa using his _ hmem
  obtain ⟨hB, hiv⟩ := h.iv hldiv
  exact ⟨hiv, State.winValue_iv_congr hB hiv⟩

end Sys2Proof.Machine
end

section
/-! SUPPORT and PROOFS. The commands `ENC` (R167, R168) and `DEC` (R169). -/

namespace Sys2Proof.Machine

variable {s : State} {m : Mode} {env : Env} {f : Chain → Block → Block → Block × Chain} {a k : Nat}

/-! ## The commands as their chaining steps -/

/-- `ENC` with no failing check is the chaining step (R167). -/
theorem exec_enc_of_pass (herr : s.err = none) (hm : Mode.ofCode s.mode = some m)
    (hf : firstFailing s.encChecks = none) : exec .enc s = .next (s.encStep Config.env m) :=
  congrArg _ ((State.command_of_pass herr hf).trans (s.encEffect_of Config.env hm))

/-- `DEC` with no failing check is the chaining step (R169). -/
theorem exec_dec_of_pass (herr : s.err = none) (hm : Mode.ofCode s.mode = some m)
    (hf : firstFailing s.decChecks = none) : exec .dec s = .next (s.decStep Config.env m) :=
  congrArg _ ((State.command_of_pass herr hf).trans (s.decEffect_of Config.env hm))

/-- Settles O29: both block steps keep the sizes, and the chaining steps do not write `LEN`. -/
theorem chainingKeepsTheLength : Obligations.ChainingKeepsTheLength := by
  unfold Obligations.ChainingKeepsTheLength
  refine ⟨fun env m B c ins hcv hpv hins r hr => ?_, fun i s t hi h => ?_⟩
  · obtain rfl | rfl := hr
    · exact chainRun_sized encBlock_sized ⟨hcv, hpv⟩ hins
    · exact chainRun_sized decBlock_sized ⟨hcv, hpv⟩ hins
  · cases exec_result h with
    | unchanged | raised => rfl
    | enc | dec => simp
    | _ => simp at hi

/-! ## The data after a transform -/

/-- A block step that gives blocks of `B` bytes for blocks of `B` bytes. -/
def KeepsSizes (f : Chain → Block → Block → Block × Chain) : Prop :=
  ∀ ⦃B : Nat⦄ ⦃c : Chain⦄ ⦃x δ : Block⦄, c.Sized B → x.length = B → δ.length = B →
    (f c x δ).1.length = B ∧ (f c x δ).2.Sized B

theorem encBlock_keepsSizes (env : Env) (m : Mode) : KeepsSizes (encBlock env m) := fun _ _ _ _ => encBlock_sized

theorem decBlock_keepsSizes (env : Env) (m : Mode) : KeepsSizes (decBlock env m) := fun _ _ _ _ => decBlock_sized

/-- The output of a run over the data is as many blocks of `B` bytes. -/
theorem State.run_output_sized (hf : KeepsSizes f) (hs : s.BlocksSized) :
    (chainRun f s.chain s.blockInputs).1.length = s.blockCount ∧
      ∀ y ∈ (chainRun f s.chain s.blockInputs).1, y.length = s.bsize := by
  obtain ⟨-, hcv, hpv⟩ := hs
  obtain ⟨hcount, hout, -⟩ := chainRun_sized (@hf s.bsize) (c := s.chain) ⟨hcv, hpv⟩ s.blockInputs_sized
  exact ⟨hcount.trans s.length_blockInputs, hout⟩

/-- The blocks of the data after a transform are the output of its run (R160, R162). -/
theorem State.transform_blocks (hf : KeepsSizes f) (hI : s.Inv) :
    (s.transform (chainRun f)).buf.blocks 0 s.bsize s.blockCount = (chainRun f s.chain s.blockInputs).1 := by
  obtain ⟨-, hblocks, ⟨hwf, -⟩, -⟩ := hI
  obtain ⟨hcount, hout⟩ := State.run_output_sized hf hblocks
  have h := Memory.blocks_writeN hwf 0 hout
  rwa [hcount] at h

/-- A transform changes no byte at or above `LEN` (R167, R169). -/
theorem State.transform_buf_of_ge (hf : KeepsSizes f) (hs : s.BlocksSized) (ha : s.len.toNat ≤ a) :
    (s.transform (chainRun f)).buf.read a = s.buf.read a := by
  obtain ⟨hcount, hout⟩ := State.run_output_sized hf hs
  have hle := s.blockBytes_le
  exact Memory.read_writeN_other (by rw [length_flatten_blocks hout, hcount]; omega) s.buf

/-- Settles O32: outside RandomDelta the chaining step is the transform alone. -/
theorem encTransformsTheData : Obligations.EncTransformsTheData := by
  unfold Obligations.EncTransformsTheData
  intro s m hI herr hm hrd hlen hal hchv n r
  have hf := encBlock_keepsSizes Config.env m
  have ⟨_, hblocks, _⟩ := hI
  refine ⟨(s.transform (chainEnc Config.env m)).buf, ?_, State.transform_blocks hf hI,
    fun a => State.transform_buf_of_ge hf hblocks⟩
  rw [exec_enc_of_pass herr hm (State.encChecks_pass hm hlen hal hchv), State.encStep_of_ne hrd]
  rfl

/-- Settles O34: in every mode the chaining step is the transform alone. -/
theorem decTransformsTheData : Obligations.DecTransformsTheData := by
  unfold Obligations.DecTransformsTheData
  intro s m hI herr hm hlen hal hchv hdelta n r
  have hf := decBlock_keepsSizes Config.env m
  have ⟨_, hblocks, _⟩ := hI
  refine ⟨(s.transform (chainDec Config.env m)).buf, ?_, State.transform_blocks hf hI,
    fun a => State.transform_buf_of_ge hf hblocks⟩
  rw [exec_dec_of_pass herr hm (State.decChecks_pass hm hlen hal hchv hdelta)]
  rfl

/-! ## RandomDelta -/

/-- Whole blocks of data have `LEN` bytes. -/
theorem State.blockBytes_eq (hal : s.len.toNat % s.bsize = 0) : s.blockCount * s.bsize = s.len.toNat :=
  Nat.div_mul_cancel (Nat.dvd_of_mod_eq_zero hal)

/-- The delta draw puts one drawn byte below `LEN` after the other (R168). -/
theorem State.drawDeltas_read (hI : s.Inv) (hal : s.len.toNat % s.bsize = 0) (hk : k < s.len.toNat) :
    (s.drawDeltas env).dlt.read k = env.draw (s.draws + k) := by
  obtain ⟨-, -, ⟨-, -, hwf, -⟩, -⟩ := hI
  have h := Memory.read_writeN hwf 0 (l := drawn env s.draws s.len.toNat) (k := k) (by simpa using hk)
  rw [getElem_drawn, Nat.zero_add] at h
  rwa [State.drawDeltas_eq, State.blockBytes_eq hal]

theorem State.drawDeltas_dlt_of_ge (ha : s.len.toNat ≤ a) : (s.drawDeltas env).dlt.read a = s.dlt.read a :=
  Memory.read_writeN_other (by have := s.blockBytes_le; rw [length_drawn]; omega) s.dlt

/-- Block `i` after a RandomDelta encryption is the cipher of block `i` XOR delta `i` (R158). -/
theorem State.transform_rd_block (hI : s.Inv) {i : Nat} (hi : i < s.blockCount) :
    (s.transform (chainEnc env .rd)).buf.readN (i * s.bsize) s.bsize =
      env.E (xorBlock (s.buf.readN (i * s.bsize) s.bsize) (s.dlt.readN (i * s.bsize) s.bsize)) := by
  have hblocks : (s.transform (chainEnc env .rd)).buf.blocks 0 s.bsize s.blockCount =
      s.blockInputs.map fun q => env.E (xorBlock q.1 q.2) :=
    (State.transform_blocks (encBlock_keepsSizes env .rd) hI).trans
      (congrArg Prod.fst (chainRun_eq_map (f := encBlock env .rd) (fun _ _ => rfl) s.blockInputs))
  have hblock := congrArg (·[i]?) hblocks
  simpa [hi, Memory.getElem_blocks, State.blockInputs, List.getElem?_eq_getElem] using hblock

/-- A RandomDelta encryption changes no byte of `BUF` at or above `LEN` (R167). -/
theorem State.encStep_rd_buf_of_ge (hI : s.Inv) (ha : s.len.toNat ≤ a) :
    (s.encStep env .rd).buf.read a = s.buf.read a := by
  obtain ⟨-, hblocks, -⟩ := hI
  rw [State.encStep_rd]
  exact State.transform_buf_of_ge (s := s.drawDeltas env) (encBlock_keepsSizes env .rd) hblocks ha

/-- A RandomDelta encryption writes both memories, `DCNT` and the draw count, and nothing else (R158, R168). -/
theorem State.encStep_rd_eq (hal : s.len.toNat % s.bsize = 0) :
    s.encStep env .rd = { s with
      buf := (s.encStep env .rd).buf, dlt := (s.drawDeltas env).dlt, dcnt := BitVec.ofNat 21 s.blockCount,
      draws := s.draws + s.len.toNat } := by
  obtain ⟨hcv, hpv⟩ := State.chain_eq_iff.1 (s.encStep_keeps_chain (env := env) (.inr (rfl : Mode.rd = .rd)))
  rw [← State.blockBytes_eq hal, ← hcv, ← hpv]
  rfl

/-- Settles O33: the delta draw, then a transform that leaves the chain state alone. -/
theorem encRandomDeltaDrawsItsDeltas : Obligations.EncRandomDeltaDrawsItsDeltas := by
  unfold Obligations.EncRandomDeltaDrawsItsDeltas
  intro s hI herr hm hlen hal n
  have hdraw : (s.drawDeltas Config.env).Inv := State.drawDeltas_inv hI hlen
  refine ⟨(s.encStep Config.env .rd).buf, (s.drawDeltas Config.env).dlt, ?_, ?_, ?_, ?_, ?_, ?_⟩
  · rw [exec_enc_of_pass herr hm (State.encChecks_pass hm hlen hal (by simp [Mode.usesIv]))]
    exact congrArg _ (State.encStep_rd_eq hal)
  · exact hI.1.toNat_ofNat ((Nat.div_le_self _ _).trans hlen)
  · exact fun k => State.drawDeltas_read hI hal
  · exact fun a => State.drawDeltas_dlt_of_ge
  · exact fun i => State.transform_rd_block hdraw
  · exact fun a => State.encStep_rd_buf_of_ge hI

end Sys2Proof.Machine
end

section
/-! SUPPORT. The chaining steps as functions of the data: runs over bytes (R160, R167 to R169). -/

namespace Sys2Proof.Machine

variable {s : State} {m : Mode} {env : Env} {f : Chain → Block → Block → Block × Chain} {B : Nat} {c : Chain}
  {d₁ d₂ e e' e₁ e₂ : List Byte}

/-! ## Runs over bytes -/

@[simp] theorem length_chunks (B n : Nat) (l : List Byte) : (chunks B n l).length = n := by
  induction n generalizing l with
  | zero => rfl
  | succ n ih => simp [chunks, ih]

/-- The blocks of two sequences together are those of the first, then those of the second. -/
theorem chunks_append {n : Nat} (h : d₁.length = n * B) (k : Nat) :
    chunks B (n + k) (d₁ ++ d₂) = chunks B n d₁ ++ chunks B k d₂ := by
  induction n generalizing d₁ with
  | zero =>
    obtain rfl : d₁ = [] := List.eq_nil_of_length_eq_zero (by simpa using h)
    rw [Nat.zero_add]
    rfl
  | succ n ih =>
    rw [Nat.succ_mul] at h
    rw [Nat.succ_add, chunks, chunks, List.take_append_of_le_length (by omega), List.drop_append_of_le_length (by omega),
      ih (by rw [List.length_drop]; omega), List.cons_append]

/-- A run over the whole blocks of the data `d`, with the deltas that the bytes `e` begin with: the output bytes and the
final chain state. -/
def runOnBytes (f : Chain → Block → Block → Block × Chain) (B : Nat) (c : Chain) (d e : List Byte) : List Byte × Chain :=
  let r := chainRun f c ((chunks B (d.length / B) d).zip (chunks B (d.length / B) e))
  (r.1.flatten, r.2)

/-- A run over two chunks of whole blocks, each with its deltas, is a run over the one and then over the other (R160). -/
theorem runOnBytes_append (f : Chain → Block → Block → Block × Chain) (c : Chain) (hd : d₁.length % B = 0)
    (he : e₁.length = d₁.length) (d₂ e₂ : List Byte) :
    runOnBytes f B c (d₁ ++ d₂) (e₁ ++ e₂) =
      ((runOnBytes f B c d₁ e₁).1 ++ (runOnBytes f B (runOnBytes f B c d₁ e₁).2 d₂ e₂).1,
        (runOnBytes f B (runOnBytes f B c d₁ e₁).2 d₂ e₂).2) := by
  have hblocks : d₁.length = d₁.length / B * B := (Nat.div_mul_cancel (Nat.dvd_of_mod_eq_zero hd)).symm
  have hcount : (d₁ ++ d₂).length / B = d₁.length / B + d₂.length / B := by
    rw [List.length_append, Nat.add_div_of_dvd_right (Nat.dvd_of_mod_eq_zero hd)]
  unfold runOnBytes
  rw [hcount, chunks_append hblocks, chunks_append (he.trans hblocks), List.zip_append (by simp), chainRun_append]
  simp

/-- A run of steps that do not see the delta depends on the data only. -/
theorem runOnBytes_congr_deltas (hf : ∀ c x δ δ', f c x δ = f c x δ') (c : Chain) (d e e' : List Byte) :
    runOnBytes f B c d e = runOnBytes f B c d e' := by
  unfold runOnBytes
  rw [chainRun_congr_inputs hf c (ins' := (chunks B (d.length / B) d).zip (chunks B (d.length / B) e'))]
  rw [List.map_fst_zip (by simp), List.map_fst_zip (by simp)]

/-! ## The transforms as runs over the data -/

/-- The bytes of `DLT` that a transform of the data takes as its deltas (R37). -/
def State.deltaBytes (s : State) : List Byte := s.dlt.readN 0 s.len.toNat

@[simp] theorem State.length_deltaBytes (s : State) : s.deltaBytes.length = s.len.toNat := by simp [State.deltaBytes]

theorem State.blockInputs_eq_chunks (hal : s.len.toNat % s.bsize = 0) :
    s.blockInputs = (chunks s.bsize s.blockCount s.data).zip (chunks s.bsize s.blockCount s.deltaBytes) := by
  rw [State.blockInputs, Memory.blocks_eq_chunks, Memory.blocks_eq_chunks, State.blockBytes_eq hal]
  rfl

/-- Data and chain state after a transform are what its run over the data gives (R160). -/
theorem State.transform_run (hf : KeepsSizes f) (hI : s.Inv) (hal : s.len.toNat % s.bsize = 0) :
    ((s.transform (chainRun f)).data, (s.transform (chainRun f)).chain) =
      runOnBytes f s.bsize s.chain s.data s.deltaBytes := by
  have hdata : (s.transform (chainRun f)).data = (chainRun f s.chain s.blockInputs).1.flatten := by
    rw [← State.transform_blocks hf hI, Memory.flatten_blocks, State.blockBytes_eq hal]
    rfl
  rw [hdata, State.transform_chain, State.blockInputs_eq_chunks hal, runOnBytes, State.length_data]
  rfl

/-- Only a RandomDelta encryption sees its deltas (R152 to R158). -/
theorem runOnBytes_encBlock_congr_deltas (h : m = .rd → e = e') (c : Chain) (d : List Byte) :
    runOnBytes (encBlock env m) B c d e = runOnBytes (encBlock env m) B c d e' := by
  by_cases hm : m = .rd
  · rw [h hm]
  · exact runOnBytes_congr_deltas (fun c x δ δ' => (blockSteps_ignore_delta env hm c x δ δ').1) c d e e'

theorem State.drawDeltas_deltaBytes (hI : s.Inv) (hal : s.len.toNat % s.bsize = 0) :
    (s.drawDeltas env).deltaBytes = drawn env s.draws s.len.toNat :=
  List.ext_getElem (by simp) fun k hk _ => by
    rw [getElem_drawn, ← State.drawDeltas_read hI hal (by simpa using hk)]
    simp [State.deltaBytes, Memory.getElem_readN]

/-- Data and chain state after the chaining step of an encryption: the deltas are drawn, and where none is drawn none is
seen (R167, R168). -/
theorem State.encStep_run (hI : s.Inv) (hlen : s.len.toNat ≤ s.capr) (hal : s.len.toNat % s.bsize = 0) :
    ((s.encStep env m).data, (s.encStep env m).chain) =
      runOnBytes (encBlock env m) s.bsize s.chain s.data (drawn env s.draws s.len.toNat) := by
  by_cases hm : m = .rd
  · subst hm
    rw [← State.drawDeltas_deltaBytes hI hal]
    exact State.transform_run (encBlock_keepsSizes env .rd) (State.drawDeltas_inv hI hlen) hal
  · rw [State.encStep_of_ne hm, runOnBytes_encBlock_congr_deltas (e' := s.deltaBytes) (absurd · hm)]
    exact State.transform_run (encBlock_keepsSizes env m) hI hal

/-- Data and chain state after the chaining step of a decryption (R169). -/
theorem State.decStep_run (hI : s.Inv) (hal : s.len.toNat % s.bsize = 0) :
    ((s.decStep env m).data, (s.decStep env m).chain) =
      runOnBytes (decBlock env m) s.bsize s.chain s.data s.deltaBytes :=
  State.transform_run (decBlock_keepsSizes env m) hI hal

/-- How often the chaining step of an encryption draws (R168). -/
theorem State.encStep_draws (hal : s.len.toNat % s.bsize = 0) :
    (s.encStep env m).draws = s.draws + if m = .rd then s.len.toNat else 0 := by
  by_cases hm : m = .rd
  · subst hm
    rw [State.encStep_rd_eq hal, if_pos rfl]
  · rw [(State.encStep_deltas hm s).2.2, if_neg hm, Nat.add_zero]

/-- A transform leaves `CTRL`, the error, `CHV` and `PADBAD` alone (R160). -/
@[simp] theorem State.transform_control (run : Chain → List (Block × Block) → List Block × Chain) (s : State) :
    (s.transform run).mode = s.mode ∧ (s.transform run).pad = s.pad ∧ (s.transform run).strict = s.strict ∧
    (s.transform run).err = s.err ∧ (s.transform run).chv = s.chv ∧ (s.transform run).padbad = s.padbad :=
  ⟨rfl, rfl, rfl, rfl, rfl, rfl⟩

/-- The delta draw leaves `CTRL`, the error, `CHV` and `PADBAD` alone (R168). -/
@[simp] theorem State.drawDeltas_control (env : Env) (s : State) :
    (s.drawDeltas env).mode = s.mode ∧ (s.drawDeltas env).pad = s.pad ∧ (s.drawDeltas env).strict = s.strict ∧
    (s.drawDeltas env).err = s.err ∧ (s.drawDeltas env).chv = s.chv ∧ (s.drawDeltas env).padbad = s.padbad :=
  ⟨rfl, rfl, rfl, rfl, rfl, rfl⟩

/-- The chaining step of an encryption leaves `CTRL`, the error, `CHV` and `PADBAD` alone (R167). -/
@[simp] theorem State.encStep_control (env : Env) (m : Mode) (s : State) :
    (s.encStep env m).mode = s.mode ∧ (s.encStep env m).pad = s.pad ∧ (s.encStep env m).strict = s.strict ∧
    (s.encStep env m).err = s.err ∧ (s.encStep env m).chv = s.chv ∧ (s.encStep env m).padbad = s.padbad := by
  unfold State.encStep
  split <;> simp

/-- The chaining step of a decryption leaves `CTRL`, the error, `CHV` and `PADBAD` alone (R169). -/
@[simp] theorem State.decStep_control (env : Env) (m : Mode) (s : State) :
    (s.decStep env m).mode = s.mode ∧ (s.decStep env m).pad = s.pad ∧ (s.decStep env m).strict = s.strict ∧
    (s.decStep env m).err = s.err ∧ (s.decStep env m).chv = s.chv ∧ (s.decStep env m).padbad = s.padbad :=
  s.transform_control (chainDec env m)

end Sys2Proof.Machine
end

section
/-! SUPPORT and PROOFS. A padding looks at the last chunk only (R127), and encryption in two chunks (R172). -/

namespace Sys2Proof.Machine

variable {s t : State} {m : Mode} {p : Scheme} {env : Env} {B : Nat} {d d₁ d₂ : List Byte}

/-! ## Padding of a last chunk -/

/-- The padding depends on the length modulo `B` only (R111). -/
theorem padLen_add {L₁ : Nat} (h : L₁ % B = 0) (p : Scheme) (L₂ : Nat) : padLen B p (L₁ + L₂) = padLen B p L₂ := by
  have hmod : (L₁ + L₂) % B = L₂ % B := by rw [Nat.add_mod, h, Nat.zero_add, Nat.mod_mod]
  cases p <;> simp only [padLen, hmod]

theorem padDraws_add {L₁ : Nat} (h : L₁ % B = 0) (p : Scheme) (L₂ : Nat) : padDraws B p (L₁ + L₂) = padDraws B p L₂ := by
  rw [padDraws_eq, padDraws_eq, padLen_add h]

theorem padBytes_add {L₁ : Nat} (h : L₁ % B = 0) (k : Nat) (p : Scheme) (L₂ : Nat) :
    padBytes env k B p (L₁ + L₂) = padBytes env k B p L₂ := by
  cases p <;> simp only [padBytes, padLen_add h, padDraws_add h]

/-- Only ISO padding depends on the draws (R124). -/
theorem padBytes_congr_draws {k k' : Nat} (h : p = .iso → k = k') (L : Nat) :
    padBytes env k B p L = padBytes env k' B p L := by
  cases p
  case iso => rw [h rfl]
  all_goals rfl

/-- A message of which the first chunk has whole blocks is padded by padding the second (R127). -/
theorem padApply_append {k k' : Nat} (hd : d₁.length % B = 0) (hk : p = .iso → k = k') (d₂ : List Byte) :
    padApply env k B p (d₁ ++ d₂) = d₁ ++ padApply env k' B p d₂ := by
  rw [padApply, padApply, List.length_append, padBytes_add hd, padBytes_congr_draws hk, List.append_assoc]

/-- The data after a padding step is the padded data (R130). -/
theorem State.padStep_data (hI : s.Inv) (hfit : s.len.toNat + padLen s.bsize p s.len.toNat ≤ s.capr) :
    (s.padStep env p).data = padApply env s.draws s.bsize p s.data := by
  obtain ⟨hinst, -, ⟨hwf, -⟩, -⟩ := hI
  have hbytes : (padBytes env s.draws s.bsize p s.len.toNat).length = padLen s.bsize p s.len.toNat :=
    length_padBytes hinst.1
  rw [State.data, State.padStep_len hinst hfit, Memory.readN_add, padApply, State.length_data]
  congr 1
  · exact Memory.readN_writeN_other (.inl (Nat.zero_add _).le) s.buf
  · rw [Nat.zero_add, ← hbytes]
    exact Memory.readN_writeN hwf _ _

/-- `ENCF` with no failing check is the padding step, then the chaining step (R201). -/
theorem exec_encf_of_pass (herr : s.err = none) (hm : Mode.ofCode s.mode = some m) (hp : Scheme.ofCode s.pad = some p)
    (hf : firstFailing s.encfChecks = none) : exec .encf s = .next ((s.padStep Config.env p).encStep Config.env m) :=
  congrArg _ ((State.command_of_pass herr hf).trans (s.encfEffect_of Config.env hm hp))

/-! ## What an encryption gives for a chunk of data -/

/-- The bytes and the final chain state that an encryption gives for the data `d`, from the chain state `c` and with call
number `k` of `Draw()` the next (R201); with no padding, what `ENC` gives for whole blocks (R167). -/
def encryptBytes (env : Env) (m : Mode) (p : Scheme) (B : Nat) (c : Chain) (k : Nat) (d : List Byte) :
    List Byte × Chain :=
  runOnBytes (encBlock env m) B c (padApply env k B p d)
    (drawn env (k + padDraws B p d.length) (d.length + padLen B p d.length))

/-- How often an encryption of `L` bytes draws: for the padding, then for the deltas (R124, R168, R201). -/
def encryptDraws (m : Mode) (p : Scheme) (B L : Nat) : Nat :=
  padDraws B p L + if m = .rd then L + padLen B p L else 0

/-- An encryption of two chunks of data, the first of whole blocks, is one of the first and then one of the second. ISO draws
of the last chunk and delta draws of both do not occur together. -/
theorem encryptBytes_append (env : Env) (hiso : m = .rd → p ≠ .iso) (c : Chain) (k : Nat) (hd : d₁.length % B = 0)
    (d₂ : List Byte) :
    let r₁ := encryptBytes env m .none B c k d₁
    let r₂ := encryptBytes env m p B r₁.2 (k + encryptDraws m .none B d₁.length) d₂
    encryptBytes env m p B c k (d₁ ++ d₂) = (r₁.1 ++ r₂.1, r₂.2) := by
  have hfirst : encryptBytes env m .none B c k d₁ = runOnBytes (encBlock env m) B c d₁ (drawn env k d₁.length) := by
    rw [encryptBytes, padApply_none]
    rfl
  have hk : p = .iso → k = k + encryptDraws m .none B d₁.length := fun hp => by
    rw [encryptDraws, if_neg fun hm => hiso hm hp]
    rfl
  have hdeltas : m = .rd →
      drawn env (k + padDraws B p (d₁ ++ d₂).length) ((d₁ ++ d₂).length + padLen B p (d₁ ++ d₂).length) =
        drawn env k d₁.length ++ drawn env (k + encryptDraws m .none B d₁.length + padDraws B p d₂.length)
          (d₂.length + padLen B p d₂.length) := fun hm => by
    have hfirstDraws : encryptDraws m .none B d₁.length = d₁.length := by simp [encryptDraws, hm, padDraws, padLen]
    rw [hfirstDraws, padDraws_eq, padDraws_eq, if_neg (hiso hm), if_neg (hiso hm), List.length_append, padLen_add hd,
      Nat.add_assoc d₁.length, drawn_add]
    rfl
  rw [hfirst, encryptBytes, padApply_append hd hk, runOnBytes_encBlock_congr_deltas hdeltas,
    runOnBytes_append _ _ hd (length_drawn ..)]
  rfl

theorem encryptDraws_add {L₁ : Nat} (h : L₁ % B = 0) (m : Mode) (p : Scheme) (L₂ : Nat) :
    encryptDraws m p B (L₁ + L₂) = encryptDraws m .none B L₁ + encryptDraws m p B L₂ := by
  have hpad : padLen B .none L₁ = 0 := rfl
  have hdraws : padDraws B .none L₁ = 0 := rfl
  unfold encryptDraws
  rw [padDraws_add h, padLen_add h, hpad, hdraws]
  split_ifs <;> omega

/-! ## Encryption of a loaded chunk -/

/-- A block has at least one byte (R6). -/
theorem State.Inv.one_le_bsize (hI : s.Inv) : 1 ≤ s.bsize := by
  obtain ⟨⟨hB, -⟩, -⟩ := hI
  exact hB

/-- `load d`, then the padding and the chaining step of `ENCF` (R201); with no padding, the chaining step of `ENC` (R167). -/
def State.encryptChunk (env : Env) (m : Mode) (p : Scheme) (d : List Byte) (s : State) : State :=
  ((s.loaded d).padStep env p).encStep env m

theorem State.encryptChunk_none (env : Env) (m : Mode) (hB : 1 ≤ s.bsize) (d : List Byte) :
    s.encryptChunk env m .none d = (s.loaded d).encStep env m := by
  rw [State.encryptChunk, State.padStep_of_padLen_zero (s := s.loaded d) hB rfl]

/-- The padding step leaves the selectors, the error, `CHV` and the chain state alone (R130). -/
@[simp] theorem State.padStep_control (env : Env) (p : Scheme) (s : State) :
    (s.padStep env p).mode = s.mode ∧ (s.padStep env p).pad = s.pad ∧ (s.padStep env p).err = s.err ∧
    (s.padStep env p).chv = s.chv ∧ (s.padStep env p).chain = s.chain := ⟨rfl, rfl, rfl, rfl, rfl⟩

theorem State.encryptChunk_frame (env : Env) (m : Mode) (p : Scheme) (d : List Byte) (s : State) :
    (s.encryptChunk env m p d).bsize = s.bsize ∧ (s.encryptChunk env m p d).capr = s.capr ∧
    (s.encryptChunk env m p d).mode = s.mode ∧ (s.encryptChunk env m p d).pad = s.pad ∧
    (s.encryptChunk env m p d).err = s.err ∧ (s.encryptChunk env m p d).chv = s.chv := by
  simp [State.encryptChunk, State.loaded]

/-- The chunk can be padded, and with its padding it lies inside the capacity (R112, R239). -/
structure State.ChunkFits (p : Scheme) (d : List Byte) (s : State) : Prop where
  aligned : p = .none → d.length % s.bsize = 0
  padded_le : d.length + padLen s.bsize p d.length ≤ s.capr

theorem State.ChunkFits.length_le (h : s.ChunkFits p d) : d.length ≤ s.capr :=
  (Nat.le_add_right _ _).trans h.padded_le

theorem State.ChunkFits.congr (h : s.ChunkFits p d) (hB : t.bsize = s.bsize) (hcap : t.capr = s.capr) :
    t.ChunkFits p d := by
  obtain ⟨hal, hle⟩ := h
  exact ⟨by rwa [hB], by rwa [hB, hcap]⟩

/-- With the padding of its second chunk inside the capacity, a message fits as a whole and chunk by chunk. -/
theorem State.chunksFit (hal : d₁.length % s.bsize = 0) (hnone : p = .none → d₂.length % s.bsize = 0)
    (hfit : d₁.length + d₂.length + padLen s.bsize p d₂.length ≤ s.capr) :
    s.ChunkFits .none d₁ ∧ s.ChunkFits p d₂ ∧ s.ChunkFits p (d₁ ++ d₂) := by
  have hpad : padLen s.bsize .none d₁.length = 0 := rfl
  refine ⟨⟨fun _ => hal, by omega⟩, ⟨hnone, by omega⟩, fun h => ?_, ?_⟩
  · rw [List.length_append, Nat.add_mod, hal, hnone h, Nat.zero_mod]
  · rwa [List.length_append, padLen_add hal]

section Loaded

variable (hI : s.Inv) (hfit : s.ChunkFits p d)
include hI hfit

theorem State.loaded_padStep_inv : ((s.loaded d).padStep env p).Inv := by
  refine State.padStep_inv (State.loaded_inv hI hfit.length_le) ?_
  rw [State.loaded_len hI hfit.length_le]
  exact hfit.padded_le

theorem State.loaded_padStep_len :
    ((s.loaded d).padStep env p).len.toNat = d.length + padLen s.bsize p d.length := by
  rw [State.padStep_eq, State.loaded_len hI hfit.length_le]
  exact hI.1.toNat_ofNat hfit.padded_le

theorem State.loaded_padStep_aligned : ((s.loaded d).padStep env p).len.toNat % s.bsize = 0 := by
  rw [State.loaded_padStep_len hI hfit]
  exact add_padLen_mod hI.one_le_bsize hfit.aligned

theorem State.loaded_padStep_data : ((s.loaded d).padStep env p).data = padApply env s.draws s.bsize p d := by
  have hd := hfit.length_le
  have hle : (s.loaded d).len.toNat + padLen s.bsize p (s.loaded d).len.toNat ≤ s.capr := by
    rw [State.loaded_len hI hd]
    exact hfit.padded_le
  rw [State.padStep_data (State.loaded_inv hI hd) hle, State.loaded_data hI hd]
  rfl

theorem State.loaded_padStep_draws :
    ((s.loaded d).padStep env p).draws = s.draws + padDraws s.bsize p d.length := by
  rw [State.padStep_eq, State.loaded_len hI hfit.length_le]
  rfl

theorem State.encryptChunk_inv : (s.encryptChunk env m p d).Inv :=
  State.encStep_inv (State.loaded_padStep_inv hI hfit) ((State.loaded_padStep_len hI hfit).trans_le hfit.padded_le)

/-- Data and chain state after a chunk are what its encryption gives. -/
theorem State.encryptChunk_run :
    ((s.encryptChunk env m p d).data, (s.encryptChunk env m p d).chain) =
      encryptBytes env m p s.bsize s.chain s.draws d := by
  have hlen := State.loaded_padStep_len (env := env) hI hfit
  have h := State.encStep_run (env := env) (m := m) (State.loaded_padStep_inv hI hfit) (hlen.trans_le hfit.padded_le)
    (State.loaded_padStep_aligned hI hfit)
  rwa [hlen, State.loaded_padStep_data hI hfit, State.loaded_padStep_draws hI hfit] at h

theorem State.encryptChunk_draws :
    (s.encryptChunk env m p d).draws = s.draws + encryptDraws m p s.bsize d.length := by
  have h := State.encStep_draws (env := env) (m := m) (State.loaded_padStep_aligned (env := env) hI hfit)
  rwa [State.loaded_padStep_len hI hfit, State.loaded_padStep_draws hI hfit, Nat.add_assoc] at h

/-- `ENCF` of a loaded chunk when none of its checks fails (R201). -/
theorem exec_encf_loaded (herr : s.err = none) (hm : Mode.ofCode s.mode = some m) (hp : Scheme.ofCode s.pad = some p)
    (hB : p.countBearing = true → s.bsize ≤ 255) (hchv : m.usesIv = true → s.chv = true) :
    exec .encf (s.loaded d) = .next (s.encryptChunk Config.env m p d) := by
  have hlen := State.loaded_len hI hfit.length_le
  have hwide : p.countBearing = true → s.bsize ≠ 256 := fun hc => by have := hB hc; omega
  exact exec_encf_of_pass herr hm hp (State.encfChecks_pass hm hp hwide (hlen.trans_le hfit.length_le)
    (by rw [hlen]; exact hfit.aligned) (by rw [hlen]; exact hfit.padded_le) hchv)

end Loaded

/-- `ENC` of a loaded chunk of whole blocks when none of its checks fails (R167). -/
theorem exec_enc_loaded (hI : s.Inv) (hfit : s.ChunkFits .none d) (herr : s.err = none)
    (hm : Mode.ofCode s.mode = some m) (hchv : m.usesIv = true → s.chv = true) :
    exec .enc (s.loaded d) = .next (s.encryptChunk Config.env m .none d) := by
  have hlen := State.loaded_len hI hfit.length_le
  rw [State.encryptChunk_none _ _ hI.one_le_bsize]
  exact exec_enc_of_pass herr hm (State.encChecks_pass hm (hlen.trans_le hfit.length_le)
    (by rw [hlen]; exact hfit.aligned rfl) hchv)

/-! ## Two chunks -/

/-- Two chunks one after the other leave the data, the chain state and the draw count of the whole message in one chunk: the
second continues from the chain state and the draw count that the first left (R172). -/
theorem State.encryptChunk_append (hI : s.Inv) (hiso : m = .rd → p ≠ .iso) (h₁ : s.ChunkFits .none d₁)
    (h₂ : s.ChunkFits p d₂) (h : s.ChunkFits p (d₁ ++ d₂)) :
    let t := s.encryptChunk env m .none d₁
    let u := t.encryptChunk env m p d₂
    let w := s.encryptChunk env m p (d₁ ++ d₂)
    w.data = t.data ++ u.data ∧ w.chain = u.chain ∧ w.draws = u.draws := by
  intro t u w
  have hal := h₁.aligned rfl
  obtain ⟨hB, hcap, -⟩ : t.bsize = s.bsize ∧ t.capr = s.capr ∧ _ := s.encryptChunk_frame env m .none d₁
  have hI₁ : t.Inv := State.encryptChunk_inv hI h₁
  have hrun₁ : (t.data, t.chain) = _ := State.encryptChunk_run hI h₁
  have hrun₂ : (u.data, u.chain) = _ := State.encryptChunk_run hI₁ (h₂.congr hB hcap)
  have hrun : (w.data, w.chain) = _ := State.encryptChunk_run hI h
  have hdraws₁ : t.draws = _ := State.encryptChunk_draws hI h₁
  have hdraws₂ : u.draws = _ := State.encryptChunk_draws hI₁ (h₂.congr hB hcap)
  have hdraws : w.draws = _ := State.encryptChunk_draws hI h
  rw [encryptBytes_append env hiso s.chain s.draws hal d₂, ← hrun₁, ← hdraws₁, ← hB, ← hrun₂] at hrun
  obtain ⟨hdata, hchain⟩ := Prod.mk.inj hrun
  refine ⟨hdata, hchain, ?_⟩
  rw [hdraws, hdraws₂, hdraws₁, hB, List.length_append, encryptDraws_add hal, Nat.add_assoc]

/-- Settles O42: both commands and the one over the whole pass their checks, and two chunks leave what the whole leaves. -/
theorem chunkedMessageIsTheWholeMessage : Obligations.ChunkedMessageIsTheWholeMessage := by
  unfold Obligations.ChunkedMessageIsTheWholeMessage
  intro s m p d₁ d₂ hI herr hm hp hiso hB hal hnone hfit hchv
  obtain ⟨h₁, h₂, h⟩ := State.chunksFit hal hnone hfit
  obtain ⟨hB₁, hcap₁, hmode₁, hpad₁, herr₁, hchv₁⟩ := s.encryptChunk_frame Config.env m .none d₁
  obtain ⟨-, -, -, -, herr₂, -⟩ := (s.encryptChunk Config.env m .none d₁).encryptChunk_frame Config.env m p d₂
  obtain ⟨-, -, -, -, herrw, -⟩ := s.encryptChunk_frame Config.env m p (d₁ ++ d₂)
  obtain ⟨hdata, hchain, hdraws⟩ := State.encryptChunk_append (env := Config.env) hI hiso h₁ h₂ h
  obtain ⟨hcv, hpv⟩ := State.chain_eq_iff.1 hchain
  refine ⟨_, _, _, exec_enc_loaded hI h₁ herr hm hchv, ?_, exec_encf_loaded hI h herr hm hp hB hchv,
    herr₁.trans herr, herr₂.trans (herr₁.trans herr), herrw.trans herr, hdata, hcv, hpv, hdraws⟩
  exact exec_encf_loaded (State.encryptChunk_inv hI h₁) (h₂.congr hB₁ hcap₁) (herr₁.trans herr)
    (by rwa [hmode₁]) (by rwa [hpad₁]) (by rwa [hB₁]) (by rwa [hchv₁])

end Sys2Proof.Machine
end

section
/-! SUPPORT and PROOFS. A removal looks at the last chunk only, but for the zeros of Zeros (R127, R281), and decryption in two
chunks (R172). -/

namespace Sys2Proof.Machine

variable {s t u : State} {m : Mode} {p : Scheme} {env : Env} {B : Nat} {strict bad : Bool} {opc : Byte}
  {a b d d₁ d₂ e e₁ e₂ : List Byte}

/-! ## Removal from a last chunk -/

/-- The data of two chunks together, `d` being what a removal left of the last; the zeros of Zeros go at the end of the whole
(R281). -/
def joinRemoved (p : Scheme) (a d : List Byte) : List Byte := if p = .zeros then stripZeros (a ++ d) else a ++ d

/-- A valid padding is no longer than the data (R120). -/
theorem padCount_le_of_valid (hp : p.countBearing = true) (hv : padValid B p b = true) : padCount b ≤ b.length := by
  have hrange : countInRange B b = true := by
    obtain rfl | rfl | rfl := Scheme.countBearing_iff.1 hp
    · exact (Bool.and_eq_true_iff.1 hv).1
    · exact (Bool.and_eq_true_iff.1 hv).1
    · exact hv
  exact (countInRange_iff.1 hrange).2.2

theorem joinRemoved_of_ne (hp : p ≠ .zeros) (a d : List Byte) : joinRemoved p a d = a ++ d := if_neg hp

theorem Scheme.ne_zeros_of_counted (hp : p.countBearing = true) : p ≠ .zeros := by
  rintro rfl
  cases hp

/-- A removal from two chunks is the removal from the last, for a count-bearing scheme one of at least a block. -/
theorem padRemove_append (a : List Byte) (hb : p.countBearing = true → b ≠ [] ∧ B ≤ b.length) :
    padRemove B p strict (a ++ b) = (padRemove B p strict b).map fun r => (joinRemoved p a r.1, r.2) := by
  by_cases hc : p.countBearing = true
  · obtain ⟨hne, hlen⟩ := hb hc
    have hjoin : ∀ d, joinRemoved p a d = a ++ d := joinRemoved_of_ne (Scheme.ne_zeros_of_counted hc) a
    rw [padRemove_of_counted hc, padRemove_of_counted hc, padValid_append a hne hlen, padCount_append a hne]
    split_ifs with hv hs
    · simp [Except.map, hjoin, List.take_append, Nat.add_sub_assoc (padCount_le_of_valid hc hv)]
    · rfl
    · simp [Except.map, hjoin]
  · cases p
    case none => rfl
    case zeros => simp [padRemove_zeros, Except.map, joinRemoved, stripZeros_append]
    all_goals simp [Scheme.countBearing] at hc

/-- A removal answers a beginning of the data (R110). -/
theorem padRemove_prefix (h : padRemove B p strict b = .ok (d, bad)) : d <+: b := by
  by_cases hc : p.countBearing = true
  · rw [padRemove_of_counted hc] at h
    split_ifs at h
    · obtain ⟨rfl, -⟩ := Prod.mk.inj (Except.ok.inj h)
      exact List.take_prefix _ _
    · obtain ⟨rfl, -⟩ := Prod.mk.inj (Except.ok.inj h)
      exact List.prefix_rfl
  · cases p
    case none => exact (Prod.mk.inj (Except.ok.inj h)).1 ▸ List.prefix_rfl
    case zeros => exact (Prod.mk.inj (Except.ok.inj h)).1 ▸ stripZeros_prefix b
    all_goals simp [Scheme.countBearing] at hc

/-- With `LEN` lowered to the length of a beginning of the data, that beginning is the data. -/
theorem State.data_of_prefix (hd : d <+: s.data) (hbuf : t.buf = s.buf) (hlen : t.len = BitVec.ofNat 21 d.length) :
    t.data = d := by
  have hle : d.length ≤ s.len.toNat := s.length_data ▸ hd.length_le
  have hlt : d.length < 2 ^ 21 := hle.trans_lt s.len.isLt
  rw [State.data, hlen, hbuf, BitVec.toNat_ofNat, Nat.mod_eq_of_lt hlt]
  rw [State.data, ← Nat.add_sub_cancel' hle, Memory.readN_add] at hd
  exact (List.prefix_iff_eq_take.1 hd).trans (List.take_left' (Memory.length_readN ..)) |>.symm

theorem State.removeStep_data_of_ok (h : padRemove s.bsize p s.strict s.data = .ok (d, bad)) :
    (s.removeStep opc p).data = d := by
  rw [State.removeStep_of_ok h]
  exact State.data_of_prefix (padRemove_prefix h) rfl rfl

/-- A removal after the last of two chunks leaves the data, the verdict and the error of a removal after the whole. -/
theorem State.removeStep_append (opc : Byte) (hB : t.bsize = u.bsize) (hstrict : t.strict = u.strict)
    (herr : t.err = u.err) (hbad : t.padbad = u.padbad) (hdata : t.data = a ++ u.data)
    (hlast : p.countBearing = true → u.data ≠ [] ∧ u.bsize ≤ u.data.length) :
    (t.removeStep opc p).data = joinRemoved p a (u.removeStep opc p).data ∧
    (t.removeStep opc p).err = (u.removeStep opc p).err ∧ (t.removeStep opc p).padbad = (u.removeStep opc p).padbad := by
  have happ := padRemove_append (strict := u.strict) a hlast
  rw [← hdata, ← hB, ← hstrict] at happ
  cases hr : padRemove t.bsize p t.strict u.data with
  | ok r =>
    obtain ⟨d, bad⟩ := r
    rw [hr] at happ
    rw [hB, hstrict] at hr
    rw [State.removeStep_data_of_ok happ, State.removeStep_data_of_ok hr, State.removeStep_of_ok happ,
      State.removeStep_of_ok hr]
    exact ⟨rfl, herr, rfl⟩
  | error e =>
    have hzeros : p ≠ .zeros := by
      rintro rfl
      cases hr
    rw [hr] at happ
    rw [hB, hstrict] at hr
    rw [State.removeStep_of_error happ, State.removeStep_of_error hr, joinRemoved_of_ne hzeros]
    exact ⟨hdata, rfl, hbad⟩

/-- `DECF` with no failing precondition is the chaining step, then the removal step (R202). -/
theorem exec_decf_of_pass (herr : s.err = none) (hm : Mode.ofCode s.mode = some m) (hp : Scheme.ofCode s.pad = some p)
    (hf : firstFailing s.decfChecks = none) :
    exec .decf s = .next ((s.decStep Config.env m).removeStep Instr.decf.opcode p) :=
  congrArg _ ((State.command_of_pass herr hf).trans (s.decfEffect_of Config.env hm hp))

/-! ## Decryption of a loaded chunk -/

/-- `load d` and `loaddlt e`, then the chaining step of `DEC` (R169). -/
def State.decryptChunk (env : Env) (m : Mode) (d e : List Byte) (s : State) : State :=
  ((s.loaded d).loadedDeltas e).decStep env m

/-- The chunk `d` is whole blocks inside the capacity, and `e` is as many bytes of deltas (R234, R235, R242). -/
structure State.CipherFits (d e : List Byte) (s : State) : Prop where
  length_le : d.length ≤ s.capr
  aligned : d.length % s.bsize = 0
  deltas : e.length = d.length

theorem State.CipherFits.congr (h : s.CipherFits d e) (hB : t.bsize = s.bsize) (hcap : t.capr = s.capr) :
    t.CipherFits d e := by
  obtain ⟨hle, hal, he⟩ := h
  exact ⟨by rwa [hcap], by rwa [hB], he⟩

/-- A ciphertext that fits as a whole fits chunk by chunk. -/
theorem State.ciphersFit (hal₁ : d₁.length % s.bsize = 0) (hal₂ : d₂.length % s.bsize = 0)
    (hfit : d₁.length + d₂.length ≤ s.capr) (he₁ : e₁.length = d₁.length) (he₂ : e₂.length = d₂.length) :
    s.CipherFits d₁ e₁ ∧ s.CipherFits d₂ e₂ ∧ s.CipherFits (d₁ ++ d₂) (e₁ ++ e₂) := by
  refine ⟨⟨by omega, hal₁, he₁⟩, ⟨by omega, hal₂, he₂⟩, ?_, ?_, ?_⟩
  · rwa [List.length_append]
  · rw [List.length_append, Nat.add_mod, hal₁, hal₂, Nat.zero_mod]
  · rw [List.length_append, List.length_append, he₁, he₂]

theorem State.decryptChunk_frame (env : Env) (m : Mode) (d e : List Byte) (s : State) :
    (s.decryptChunk env m d e).bsize = s.bsize ∧ (s.decryptChunk env m d e).capr = s.capr ∧
    (s.decryptChunk env m d e).mode = s.mode ∧ (s.decryptChunk env m d e).pad = s.pad ∧
    (s.decryptChunk env m d e).strict = s.strict ∧ (s.decryptChunk env m d e).err = s.err ∧
    (s.decryptChunk env m d e).chv = s.chv ∧ (s.decryptChunk env m d e).padbad = s.padbad := by
  simp [State.decryptChunk, State.loaded, State.loadedDeltas]

section Loaded

variable (hI : s.Inv) (hfit : s.CipherFits d e)
include hI hfit

theorem State.loadedCipher_inv : ((s.loaded d).loadedDeltas e).Inv := by
  obtain ⟨hd, -, he⟩ := hfit
  exact State.loadedDeltas_inv (State.loaded_inv hI hd) (he.trans_le hd)

theorem State.loadedCipher_len : ((s.loaded d).loadedDeltas e).len.toNat = d.length := State.loaded_len hI hfit.length_le

theorem State.loadedCipher_deltaBytes : ((s.loaded d).loadedDeltas e).deltaBytes = e := by
  obtain ⟨hd, -, he⟩ := hfit
  rw [State.deltaBytes, State.loadedDeltas_eq, ← he.trans (State.loaded_len hI hd).symm]
  exact State.loadedDeltas_read (State.loaded_inv hI hd)

theorem State.loadedCipher_dcnt : ((s.loaded d).loadedDeltas e).dcnt.toNat = d.length / s.bsize := by
  obtain ⟨hd, -, he⟩ := hfit
  rw [← he]
  exact State.loadedDeltas_dcnt (State.loaded_inv hI hd) (he.trans_le hd)

theorem State.decryptChunk_inv : (s.decryptChunk env m d e).Inv :=
  State.decStep_inv (State.loadedCipher_inv hI hfit) ((State.loadedCipher_len hI hfit).trans_le hfit.length_le)

theorem State.decryptChunk_len : (s.decryptChunk env m d e).len.toNat = d.length := State.loadedCipher_len hI hfit

/-- Data and chain state after a chunk are what a run over it gives. -/
theorem State.decryptChunk_run :
    ((s.decryptChunk env m d e).data, (s.decryptChunk env m d e).chain) =
      runOnBytes (decBlock env m) s.bsize s.chain d e := by
  have hlen := State.loadedCipher_len hI hfit
  have hdata : ((s.loaded d).loadedDeltas e).data = d := State.loaded_data hI hfit.length_le
  have h := State.decStep_run (env := env) (m := m) (State.loadedCipher_inv hI hfit) (by rw [hlen]; exact hfit.aligned)
  rwa [hdata, State.loadedCipher_deltaBytes hI hfit] at h

/-- `DEC` of a loaded chunk when none of its checks fails (R169). -/
theorem exec_dec_loaded (herr : s.err = none) (hm : Mode.ofCode s.mode = some m)
    (hchv : m.usesIv = true → s.chv = true) :
    exec .dec ((s.loaded d).loadedDeltas e) = .next (s.decryptChunk Config.env m d e) := by
  have hlen := State.loadedCipher_len hI hfit
  exact exec_dec_of_pass herr hm (State.decChecks_pass hm (hlen.trans_le hfit.length_le)
    (by rw [hlen]; exact hfit.aligned) hchv fun _ => by rw [hlen, State.loadedCipher_dcnt hI hfit]; rfl)

/-- `DECF` of a loaded chunk when none of its preconditions fails (R202). -/
theorem exec_decf_loaded (herr : s.err = none) (hm : Mode.ofCode s.mode = some m) (hp : Scheme.ofCode s.pad = some p)
    (hw : p.countBearing = true → s.bsize ≤ 255 ∧ d ≠ []) (hchv : m.usesIv = true → s.chv = true) :
    exec .decf ((s.loaded d).loadedDeltas e) =
      .next ((s.decryptChunk Config.env m d e).removeStep Instr.decf.opcode p) := by
  have hlen := State.loadedCipher_len hI hfit
  have hw' : p.countBearing = true → s.bsize ≠ 256 ∧ ((s.loaded d).loadedDeltas e).len ≠ 0 := fun hc => by
    obtain ⟨hB, hne⟩ := hw hc
    refine ⟨by omega, fun h0 => hne (List.eq_nil_of_length_eq_zero ?_)⟩
    rw [← hlen, h0]
    rfl
  exact exec_decf_of_pass herr hm hp (State.decfChecks_pass hm hp hw' (hlen.trans_le hfit.length_le)
    (by rw [hlen]; exact hfit.aligned) hchv fun _ => by rw [hlen, State.loadedCipher_dcnt hI hfit]; rfl)

end Loaded

/-! ## Two chunks -/

/-- Two chunks one after the other leave the data and the chain state of the whole ciphertext in one chunk: the second
continues from the chain state that the first left (R172). -/
theorem State.decryptChunk_append (hI : s.Inv) (h₁ : s.CipherFits d₁ e₁) (h₂ : s.CipherFits d₂ e₂)
    (h : s.CipherFits (d₁ ++ d₂) (e₁ ++ e₂)) :
    let t := s.decryptChunk env m d₁ e₁
    let u := t.decryptChunk env m d₂ e₂
    let w := s.decryptChunk env m (d₁ ++ d₂) (e₁ ++ e₂)
    w.data = t.data ++ u.data ∧ w.chain = u.chain := by
  intro t u w
  obtain ⟨hB, hcap, -⟩ : t.bsize = s.bsize ∧ t.capr = s.capr ∧ _ := s.decryptChunk_frame env m d₁ e₁
  have hrun₁ : (t.data, t.chain) = _ := State.decryptChunk_run hI h₁
  have hrun₂ : (u.data, u.chain) = _ := State.decryptChunk_run (State.decryptChunk_inv hI h₁) (h₂.congr hB hcap)
  have hrun : (w.data, w.chain) = _ := State.decryptChunk_run hI h
  obtain ⟨-, hal, he⟩ := h₁
  rw [runOnBytes_append _ _ hal he, ← hrun₁, ← hB, ← hrun₂] at hrun
  exact Prod.mk.inj hrun

/-- A last chunk that is not empty leaves at least one block of data. -/
theorem State.decryptChunk_block_le (hI : s.Inv) (hfit : s.CipherFits d e) (hd : d ≠ []) :
    (s.decryptChunk env m d e).data ≠ [] ∧
    (s.decryptChunk env m d e).bsize ≤ (s.decryptChunk env m d e).data.length := by
  have hlen : (s.decryptChunk env m d e).data.length = d.length := by
    rw [State.length_data, State.decryptChunk_len hI hfit]
  have hpos : 0 < d.length := List.length_pos_iff.2 hd
  rw [← List.length_pos_iff, hlen, (s.decryptChunk_frame env m d e).1]
  exact ⟨hpos, Nat.le_of_dvd hpos (Nat.dvd_of_mod_eq_zero hfit.aligned)⟩

/-- A removal after two chunks leaves the data, the verdict and the chain state of a removal after the whole (R172, R281). -/
theorem State.decryptChunk_removeStep_append (opc : Byte) (hI : s.Inv) (h₁ : s.CipherFits d₁ e₁)
    (h₂ : s.CipherFits d₂ e₂) (h : s.CipherFits (d₁ ++ d₂) (e₁ ++ e₂)) (hlast : p.countBearing = true → d₂ ≠ []) :
    let t := s.decryptChunk env m d₁ e₁
    let u := (t.decryptChunk env m d₂ e₂).removeStep opc p
    let w := (s.decryptChunk env m (d₁ ++ d₂) (e₁ ++ e₂)).removeStep opc p
    w.data = joinRemoved p t.data u.data ∧ w.err = u.err ∧ w.padbad = u.padbad ∧ w.cv = u.cv ∧ w.pv = u.pv := by
  intro t u w
  obtain ⟨hBt, hcapt, -, -, hstrictt, herrt, -, hbadt⟩ := s.decryptChunk_frame env m d₁ e₁
  obtain ⟨hBu, -, -, -, hstrictu, herru, -, hbadu⟩ := t.decryptChunk_frame env m d₂ e₂
  obtain ⟨hBw, -, -, -, hstrictw, herrw, -, hbadw⟩ := s.decryptChunk_frame env m (d₁ ++ d₂) (e₁ ++ e₂)
  obtain ⟨hdata, hchain⟩ := State.decryptChunk_append (env := env) (m := m) hI h₁ h₂ h
  obtain ⟨hcv, hpv⟩ := State.chain_eq_iff.1 hchain
  obtain ⟨hdata', herr', hbad'⟩ := State.removeStep_append (p := p) opc (hBw.trans (hBu.trans hBt).symm)
    (hstrictw.trans (hstrictu.trans hstrictt).symm) (herrw.trans (herru.trans herrt).symm)
    (hbadw.trans (hbadu.trans hbadt).symm) hdata
    fun hc => State.decryptChunk_block_le (State.decryptChunk_inv hI h₁) (h₂.congr hBt hcapt) (hlast hc)
  exact ⟨hdata', herr', hbad', by simpa [u, w] using hcv, by simpa [u, w] using hpv⟩

/-- Settles O59: the commands pass their checks, and the removal looks at the last chunk only, but for the zeros of Zeros. -/
theorem chunkedDecryptionIsTheWholeDecryption : Obligations.ChunkedDecryptionIsTheWholeDecryption := by
  unfold Obligations.ChunkedDecryptionIsTheWholeDecryption
  intro s m p c₁ c₂ e₁ e₂ hI herr hm hp hw hal₁ hal₂ hfit he₁ he₂ hchv
  obtain ⟨h₁, h₂, h⟩ := State.ciphersFit hal₁ hal₂ hfit he₁ he₂
  obtain ⟨hB₁, hcap₁, hmode₁, hpad₁, -, herr₁, hchv₁, -⟩ := s.decryptChunk_frame Config.env m c₁ e₁
  obtain ⟨hdata, herr', hbad, hcv, hpv⟩ := State.decryptChunk_removeStep_append (env := Config.env) (m := m)
    Instr.decf.opcode hI h₁ h₂ h fun hc => (hw hc).2
  have hww : p.countBearing = true → s.bsize ≤ 255 ∧ c₁ ++ c₂ ≠ [] := fun hc =>
    ⟨(hw hc).1, List.append_ne_nil_of_right_ne_nil _ (hw hc).2⟩
  have hexec₂ := exec_decf_loaded (State.decryptChunk_inv hI h₁) (h₂.congr hB₁ hcap₁) (herr₁.trans herr)
    (by rwa [hmode₁]) (by rwa [hpad₁]) (by rwa [hB₁]) (by rwa [hchv₁])
  exact ⟨_, _, _, exec_dec_loaded hI h₁ herr hm hchv, hexec₂, exec_decf_loaded hI h herr hm hp hww hchv,
    herr₁.trans herr, herr', hbad, hdata, hcv, hpv⟩

end Sys2Proof.Machine
end

section
/-! SUPPORT. What the checks of `ENCF` (R201) and of `DECF` (R202) ask for, and what the two commands do when they hold. -/

namespace Sys2Proof.Machine

variable {s u : State} {m : Mode} {p : Scheme} {env : Env} {opc : Byte} {checks : List (Bool × Err)} {body : State}

/-- The checks of `ENCF` hold, with the mode `m` and the scheme `p` selected (R201). -/
structure State.EncfPasses (m : Mode) (p : Scheme) (s : State) : Prop where
  mode : Mode.ofCode s.mode = some m
  scheme : Scheme.ofCode s.pad = some p
  narrow : p.countBearing = true → s.bsize ≠ 256
  aligned : p = .none → s.len.toNat % s.bsize = 0
  padded_le : s.len.toNat + padLen s.bsize p s.len.toNat ≤ s.capr
  chain : m.usesIv = true → s.chv = true

/-- The preconditions of `DECF` hold, with the mode `m` and the scheme `p` selected (R202). -/
structure State.DecfPasses (m : Mode) (p : Scheme) (s : State) : Prop where
  mode : Mode.ofCode s.mode = some m
  scheme : Scheme.ofCode s.pad = some p
  counted : p.countBearing = true → s.bsize ≠ 256 ∧ s.len ≠ 0
  len_le : s.len.toNat ≤ s.capr
  aligned : s.len.toNat % s.bsize = 0
  chain : m.usesIv = true → s.chv = true
  deltas : m = .rd → s.dcnt.toNat = s.len.toNat / s.bsize

theorem State.EncfPasses.len_le (h : s.EncfPasses m p) : s.len.toNat ≤ s.capr :=
  (Nat.le_add_right _ _).trans h.padded_le

/-! ## Passing checks -/

theorem State.selMode_of_not_reserved (h : s.modeReserved = false) : ∃ m, Mode.ofCode s.mode = some m :=
  Option.isSome_iff_exists.1 (Option.isNone_eq_false_iff.1 h)

theorem State.selScheme_of_not_reserved (h : s.padReserved = false) : ∃ p, Scheme.ofCode s.pad = some p :=
  Option.isSome_iff_exists.1 (Option.isNone_eq_false_iff.1 h)

theorem State.chv_of_chain_check (hm : Mode.ofCode s.mode = some m) (h : s.noChain = false) (hiv : m.usesIv = true) :
    s.chv = true := by
  simpa [State.noChain, State.selMode, hm, hiv] using h

theorem State.narrow_of_width_check (hp : Scheme.ofCode s.pad = some p) (h : s.padTooWide = false)
    (hc : p.countBearing = true) : s.bsize ≠ 256 := by
  simpa [State.padTooWide, State.padCounts, State.selScheme, hp, hc] using h

theorem State.encfChecks_eq_none_iff : firstFailing s.encfChecks = none ↔ ∃ m p, s.EncfPasses m p := by
  constructor
  · intro hf
    have hle := fun p => State.padded_le_of_pass (s := s) (p := p) hf (by simp [State.encfChecks])
    simp only [firstFailing_eq_none, State.encfChecks, List.forall_mem_cons] at hf
    obtain ⟨hmode, hscheme, hwide, -, hnone, -, hchain, -⟩ := hf
    obtain ⟨m, hm⟩ := State.selMode_of_not_reserved hmode
    obtain ⟨p, hp⟩ := State.selScheme_of_not_reserved hscheme
    refine ⟨m, p, hm, hp, State.narrow_of_width_check hp hwide, ?_, hle p hp, State.chv_of_chain_check hm hchain⟩
    rintro rfl
    simpa [State.noneUnaligned, State.selScheme, hp, State.unaligned] using hnone
  · rintro ⟨m, p, h⟩
    exact State.encfChecks_pass h.mode h.scheme h.narrow h.len_le h.aligned h.padded_le h.chain

theorem State.decfChecks_eq_none_iff : firstFailing s.decfChecks = none ↔ ∃ m p, s.DecfPasses m p := by
  constructor
  · intro hf
    have hle := State.len_le_of_pass (s := s) hf (by simp [State.decfChecks])
    simp only [firstFailing_eq_none, State.decfChecks, List.forall_mem_cons] at hf
    obtain ⟨hmode, hscheme, hwide, -, hal, hempty, hchain, hdeltas, -⟩ := hf
    obtain ⟨m, hm⟩ := State.selMode_of_not_reserved hmode
    obtain ⟨p, hp⟩ := State.selScheme_of_not_reserved hscheme
    refine ⟨m, p, hm, hp, fun hc => ⟨State.narrow_of_width_check hp hwide hc, ?_⟩, hle, ?_,
      State.chv_of_chain_check hm hchain, ?_⟩
    · rintro hlen
      simp [State.emptyCounted, State.padCounts, State.selScheme, hp, hc, hlen] at hempty
    · simpa [State.unaligned] using hal
    · rintro rfl
      simpa [State.deltasMissing, State.selMode, hm] using hdeltas
  · rintro ⟨m, p, h⟩
    exact State.decfChecks_pass h.mode h.scheme h.counted h.len_le h.aligned h.chain h.deltas

/-! ## The commands -/

theorem State.encfCommand_of_passes (herr : s.err = none) (h : s.EncfPasses m p) :
    s.encfCommand env = (s.padStep env p).encStep env m :=
  (State.command_of_pass herr (State.encfChecks_eq_none_iff.2 ⟨m, p, h⟩)).trans (s.encfEffect_of env h.mode h.scheme)

theorem State.decfCommand_of_passes (herr : s.err = none) (h : s.DecfPasses m p) :
    s.decfCommand env = (s.decStep env m).removeStep Instr.decf.opcode p :=
  (State.command_of_pass herr (State.decfChecks_eq_none_iff.2 ⟨m, p, h⟩)).trans (s.decfEffect_of env h.mode h.scheme)

theorem exec_encf_of_passes (herr : s.err = none) (h : s.EncfPasses m p) :
    exec .encf s = .next ((s.padStep Config.env p).encStep Config.env m) :=
  congrArg Host.Outcome.next (State.encfCommand_of_passes herr h)

theorem exec_decf_of_passes (herr : s.err = none) (h : s.DecfPasses m p) :
    exec .decf s = .next ((s.decStep Config.env m).removeStep Instr.decf.opcode p) :=
  congrArg Host.Outcome.next (State.decfCommand_of_passes herr h)

/-- A command that neither meets nor raises an error has passed its checks (R14). -/
theorem State.pass_of_no_error (herr : s.err = none) (hend : (s.command opc checks body).err = none) :
    firstFailing checks = none := by
  obtain ⟨h, -⟩ | ⟨-, e, -, h⟩ | ⟨-, hf, -⟩ := s.command_cases opc checks body
  · exact absurd herr h
  · rw [h] at hend
    exact absurd hend (Option.some_ne_none e)
  · exact hf

/-- An `ENCF` without error has passed its checks, and is the padding step, then the chaining step (R201). -/
theorem passes_of_exec_encf (herr : s.err = none) (h : exec .encf s = .next u) (hend : u.err = none) :
    ∃ m p, s.EncfPasses m p ∧ u = (s.padStep Config.env p).encStep Config.env m := by
  obtain rfl := Host.Outcome.next.inj h
  obtain ⟨m, p, hpass⟩ := State.encfChecks_eq_none_iff.1 (State.pass_of_no_error herr hend)
  exact ⟨m, p, hpass, State.encfCommand_of_passes herr hpass⟩

/-- A `DECF` without error has passed its preconditions, and is the chaining step, then the removal step (R202). -/
theorem passes_of_exec_decf (herr : s.err = none) (h : exec .decf s = .next u) (hend : u.err = none) :
    ∃ m p, s.DecfPasses m p ∧ u = (s.decStep Config.env m).removeStep Instr.decf.opcode p := by
  obtain rfl := Host.Outcome.next.inj h
  obtain ⟨m, p, hpass⟩ := State.decfChecks_eq_none_iff.1 (State.pass_of_no_error herr hend)
  exact ⟨m, p, hpass, State.decfCommand_of_passes herr hpass⟩

end Sys2Proof.Machine
end

section
/-! SUPPORT and PROOFS. A composite command is its two halves (R200), the blocks that `ENCF` leaves (R203), and an empty
final chunk (R205). -/

namespace Sys2Proof.Machine

variable {s t u : State} {m : Mode} {p : Scheme} {env : Env} {opc : Byte} {B L : Nat}

/-! ## The halves -/

section Passes

variable (hI : s.Inv) (h : s.EncfPasses m p)
include hI h

theorem State.EncfPasses.padStep_inv : (s.padStep env p).Inv := State.padStep_inv hI h.padded_le

theorem State.EncfPasses.padStep_len : (s.padStep env p).len.toNat = s.len.toNat + padLen s.bsize p s.len.toNat :=
  State.padStep_len hI.1 h.padded_le

theorem State.EncfPasses.padStep_len_le : (s.padStep env p).len.toNat ≤ s.capr :=
  State.padStep_len_le hI.1 h.padded_le

/-- The padded data has whole blocks (R111). -/
theorem State.EncfPasses.padStep_aligned : (s.padStep env p).len.toNat % s.bsize = 0 := by
  rw [h.padStep_len hI]
  exact add_padLen_mod hI.one_le_bsize h.aligned

end Passes

/-- After the padding step of an `ENCF` nothing keeps `ENC` from the chaining step (R201). -/
theorem State.EncfPasses.exec_halves (hI : s.Inv) (herr : s.err = none) (h : s.EncfPasses m p) :
    exec .pad s = .next (s.padStep Config.env p) ∧
    exec .enc (s.padStep Config.env p) = .next ((s.padStep Config.env p).encStep Config.env m) :=
  ⟨exec_pad_of_pass herr h.scheme (State.padChecks_pass h.scheme h.narrow h.len_le h.aligned h.padded_le),
    exec_enc_of_pass herr h.mode
      (State.encChecks_pass h.mode (h.padStep_len_le hI) (h.padStep_aligned hI) h.chain)⟩

/-- The opcode of a removal step shows only in an error (R131, R208). -/
theorem State.removeStep_opcode (opc' : Byte) (h : (s.removeStep opc p).err = none) :
    s.removeStep opc' p = s.removeStep opc p := by
  cases hr : padRemove s.bsize p s.strict s.data with
  | ok r => rw [State.removeStep_of_ok hr, State.removeStep_of_ok hr]
  | error e =>
    rw [State.removeStep_of_error hr] at h
    exact absurd h (Option.some_ne_none e)

/-- After the chaining step of a `DECF` nothing keeps `UNPAD` from the removal step (R202). -/
theorem State.DecfPasses.exec_halves (herr : s.err = none) (h : s.DecfPasses m p) :
    exec .dec s = .next (s.decStep Config.env m) ∧
    exec .unpad (s.decStep Config.env m) = .next ((s.decStep Config.env m).removeStep Instr.unpad.opcode p) :=
  ⟨exec_dec_of_pass herr h.mode (State.decChecks_pass h.mode h.len_le h.aligned h.chain h.deltas),
    exec_unpad_of_pass herr h.scheme (State.unpadChecks_pass h.scheme h.counted h.len_le h.aligned)⟩

/-- Settles O36: the first half passes its checks as the composite did and leaves a state in which the second does; a removal
without error does not show its opcode. -/
theorem compositesAreTheirHalves : Obligations.CompositesAreTheirHalves := by
  unfold Obligations.CompositesAreTheirHalves
  refine fun s u hI herr hend => ⟨fun hexec => ?_, fun hexec => ?_⟩
  · obtain ⟨m, p, h, rfl⟩ := passes_of_exec_encf herr hexec hend
    obtain ⟨hpad, henc⟩ := h.exec_halves hI herr
    exact ⟨_, hpad, herr, henc⟩
  · obtain ⟨m, p, h, rfl⟩ := passes_of_exec_decf herr hexec hend
    obtain ⟨hdec, hunpad⟩ := h.exec_halves herr
    exact ⟨_, hdec, herr, hunpad.trans (congrArg _ (State.removeStep_opcode _ hend))⟩

/-! ## Block counts -/

/-- Filling up the last block, or adding one where it is full, makes one block more. -/
theorem add_sub_mod_div_self (hB : 1 ≤ B) (L : Nat) : (L + (B - L % B)) / B = L / B + 1 := by
  have hlt : L % B < B := Nat.mod_lt L hB
  have hdiv := Nat.div_add_mod' L B
  refine Nat.div_eq_of_lt_le ?_ ?_ <;> simp only [Nat.add_mul] <;> omega

theorem padded_div_of_counted (hB : 1 ≤ B) (hp : p.countBearing = true) : (L + padLen B p L) / B = L / B + 1 := by
  rw [padLen_of_counted hp, add_sub_mod_div_self hB]

/-- Zeros padding rounds the number of blocks up (R203). -/
theorem padded_div_zeros (hB : 1 ≤ B) : (L + padLen B .zeros L) / B = (L + B - 1) / B := by
  have hlt : L % B < B := Nat.mod_lt L hB
  have hdiv := Nat.div_add_mod' L B
  rw [padLen_zeros]
  split_ifs with hL
  · refine (Nat.div_eq_of_lt_le ?_ ?_).symm <;> simp only [Nat.add_zero, Nat.add_mul] <;> omega
  · rw [add_sub_mod_div_self hB]
    refine (Nat.div_eq_of_lt_le ?_ ?_).symm <;> simp only [Nat.add_mul] <;> omega

/-- Settles O39: the chaining step keeps the padded length, and the three formulas are arithmetic on it. -/
theorem blockCountsOfEncf : Obligations.BlockCountsOfEncf := by
  unfold Obligations.BlockCountsOfEncf
  intro s t hI herr hexec hend
  obtain ⟨m, p, h, rfl⟩ := passes_of_exec_encf herr hexec hend
  obtain ⟨-, -, -, hkeep⟩ := (s.padStep Config.env p).encStep_frame Config.env m
  have hlen : ((s.padStep Config.env p).encStep Config.env m).len.toNat = _ := hkeep ▸ h.padStep_len hI
  have hal := h.padStep_aligned (env := Config.env) hI
  rw [h.padStep_len hI] at hal
  rw [hlen]
  refine ⟨fun hc => ?_, fun hz => ?_, fun hn => ?_, hal⟩
  · rw [Scheme.ofCode_eq_some.1 h.scheme] at hc
    exact padded_div_of_counted hI.one_le_bsize (Scheme.countBearing_code.2 hc)
  · obtain rfl : p = .zeros := Option.some.inj (h.scheme.symm.trans (congrArg Scheme.ofCode hz))
    exact padded_div_zeros hI.one_le_bsize
  · obtain rfl : p = .none := Option.some.inj (h.scheme.symm.trans (congrArg Scheme.ofCode hn))
    rfl

/-! ## An empty final chunk -/

/-- A run over no block changes nothing. -/
theorem State.transform_of_empty {f : Chain → Block → Block → Block × Chain} (hlen : s.len = 0) :
    s.transform (chainRun f) = s := by
  have hcount : s.blockCount = 0 := by simp [State.blockCount, hlen]
  have hinputs : s.blockInputs = [] := List.eq_nil_of_length_eq_zero (s.length_blockInputs.trans hcount)
  rw [State.transform_eq, hinputs]
  rfl

/-- With no data RandomDelta draws no delta, and says so in `DCNT` (R168). -/
theorem State.drawDeltas_of_empty (hlen : s.len = 0) : s.drawDeltas env = { s with dcnt := 0 } := by
  have hcount : s.blockCount = 0 := by simp [State.blockCount, hlen]
  rw [State.drawDeltas_eq, hcount, Nat.zero_mul]
  rfl

theorem State.encStep_of_empty (hlen : s.len = 0) :
    s.encStep env m = if m = .rd then { s with dcnt := 0 } else s := by
  unfold State.encStep
  split_ifs
  · rw [State.drawDeltas_of_empty hlen]
    exact State.transform_of_empty hlen
  · exact State.transform_of_empty hlen

/-- Settles O40: no byte is appended, no block transformed and no byte removed. -/
theorem emptyFinalChunk : Obligations.EmptyFinalChunk := by
  unfold Obligations.EmptyFinalChunk
  intro s m hI herr hpad hm hchv hlen
  obtain ⟨p, hp, hscheme⟩ : ∃ p, (p = .none ∨ p = .zeros) ∧ Scheme.ofCode s.pad = some p := by
    obtain hpad | hpad := hpad
    · exact ⟨.none, .inl rfl, hpad ▸ rfl⟩
    · exact ⟨.zeros, .inr rfl, hpad ▸ rfl⟩
  have hcounted : p.countBearing = false := by obtain rfl | rfl := hp <;> rfl
  have hlen0 : s.len.toNat = 0 := by rw [hlen]; rfl
  have hal : s.len.toNat % s.bsize = 0 := by rw [hlen0, Nat.zero_mod]
  have hpadLen : padLen s.bsize p s.len.toNat = 0 := padLen_of_not_counted hcounted hal
  refine ⟨?_, fun hdcnt => ?_⟩
  · have hpass : s.EncfPasses m p := ⟨hm, hscheme, by simp [hcounted], fun _ => hal, by omega, hchv⟩
    rw [exec_encf_of_passes herr hpass, State.padStep_of_padLen_zero hI.one_le_bsize hpadLen,
      State.encStep_of_empty hlen]
  · have hpass : s.DecfPasses m p := ⟨hm, hscheme, by simp [hcounted], by omega, hal, hchv, fun hrd => by
      rw [hdcnt hrd, hlen0, Nat.zero_div]; rfl⟩
    have hdec : s.decStep Config.env m = s := State.transform_of_empty hlen
    have hdata : s.data = [] := List.eq_nil_of_length_eq_zero (s.length_data.trans hlen0)
    have hremove : padRemove s.bsize p s.strict s.data = .ok ([], false) := by
      obtain rfl | rfl := hp <;> rw [hdata] <;> rfl
    have hkeep : BitVec.ofNat 21 ([] : List Byte).length = s.len := hlen.symm
    rw [exec_decf_of_passes herr hpass, hdec, State.removeStep_of_ok hremove, hkeep]

end Sys2Proof.Machine
end

section
/-! SUPPORT and PROOFS. The data, the chain state and the deltas that `ENCF` (R201) and `DECF` (R202) leave. -/

namespace Sys2Proof.Machine

variable {s : State} {m : Mode} {p : Scheme} {env : Env} {f : Chain → Block → Block → Block × Chain} {a : Nat}

/-! ## The chaining step of an encryption -/

/-- The state that the chaining step of an encryption transforms: in RandomDelta the deltas have been drawn (R168). -/
def State.withDeltas (env : Env) (m : Mode) (s : State) : State := if m = .rd then s.drawDeltas env else s

/-- The delta blocks of an encryption: drawn in RandomDelta, in the other modes those that stand in `DLT` (R160, R168). -/
def State.encDeltas (env : Env) (m : Mode) (s : State) : List Block :=
  if m = .rd then chunks s.bsize s.blockCount (drawn env s.draws s.len.toNat) else s.dlt.blocks 0 s.bsize s.blockCount

theorem State.encStep_eq_transform (env : Env) (m : Mode) (s : State) :
    s.encStep env m = (s.withDeltas env m).transform (chainEnc env m) := rfl

theorem State.withDeltas_of_ne (hm : m ≠ .rd) : s.withDeltas env m = s := if_neg hm

/-- The delta draw leaves the constants, the data and the chain alone (R168). -/
theorem State.withDeltas_frame (env : Env) (m : Mode) (s : State) :
    (s.withDeltas env m).bsize = s.bsize ∧ (s.withDeltas env m).capr = s.capr ∧ (s.withDeltas env m).len = s.len ∧
    (s.withDeltas env m).buf = s.buf ∧ (s.withDeltas env m).iv = s.iv ∧ (s.withDeltas env m).ivv = s.ivv ∧
    (s.withDeltas env m).chain = s.chain ∧ (s.withDeltas env m).blockCount = s.blockCount ∧
    (s.withDeltas env m).data = s.data := by
  unfold State.withDeltas
  split <;> exact ⟨rfl, rfl, rfl, rfl, rfl, rfl, rfl, rfl, rfl⟩

theorem State.withDeltas_inv (hI : s.Inv) (hlen : s.len.toNat ≤ s.capr) : (s.withDeltas env m).Inv := by
  unfold State.withDeltas
  split
  · exact State.drawDeltas_inv hI hlen
  · exact hI

/-- The deltas in `DLT` when the transform of an encryption begins. -/
theorem State.withDeltas_blocks (hI : s.Inv) (hal : s.len.toNat % s.bsize = 0) :
    (s.withDeltas env m).dlt.blocks 0 s.bsize s.blockCount = s.encDeltas env m := by
  by_cases hm : m = .rd
  · subst hm
    rw [State.encDeltas, if_pos rfl, ← State.drawDeltas_deltaBytes hI hal, Memory.blocks_eq_chunks,
      State.blockBytes_eq hal]
    rfl
  · rw [State.withDeltas_of_ne hm, State.encDeltas, if_neg hm]

theorem State.withDeltas_blockInputs (hI : s.Inv) (hal : s.len.toNat % s.bsize = 0) :
    (s.withDeltas env m).blockInputs = (chunks s.bsize s.blockCount s.data).zip (s.encDeltas env m) := by
  obtain ⟨hB, -, -, hbuf, -, -, -, hcount, -⟩ := s.withDeltas_frame env m
  rw [State.blockInputs, hB, hcount, hbuf, State.withDeltas_blocks hI hal, Memory.blocks_eq_chunks,
    State.blockBytes_eq hal]
  rfl

/-- What the chaining step of an encryption leaves: the run over the data and its deltas, in `BUF` and in the chain registers
(R160, R167). -/
theorem State.encStep_result (hI : s.Inv) (hlen : s.len.toNat ≤ s.capr) (hal : s.len.toNat % s.bsize = 0) :
    ((s.encStep env m).buf.blocks 0 s.bsize s.blockCount, (s.encStep env m).chain) =
      chainEnc env m s.chain ((chunks s.bsize s.blockCount s.data).zip (s.encDeltas env m)) := by
  obtain ⟨hB, -, -, -, -, -, hchain, hcount, -⟩ := s.withDeltas_frame env m
  have hblocks := State.transform_blocks (encBlock_keepsSizes env m) (State.withDeltas_inv (env := env) (m := m) hI hlen)
  rw [hB, hcount] at hblocks
  rw [← State.withDeltas_blockInputs hI hal, ← hchain]
  exact Prod.ext hblocks rfl

/-- The chaining step of an encryption changes no byte of `BUF` at or above `LEN` (R167). -/
theorem State.encStep_buf_of_ge (hI : s.Inv) (ha : s.len.toNat ≤ a) : (s.encStep env m).buf.read a = s.buf.read a := by
  by_cases hm : m = .rd
  · subst hm
    exact State.encStep_rd_buf_of_ge hI ha
  · obtain ⟨-, hblocks, -⟩ := hI
    rw [State.encStep_of_ne hm]
    exact State.transform_buf_of_ge (encBlock_keepsSizes env m) hblocks ha

/-- What the chaining step of an encryption can write (R167, R168). -/
theorem State.encStep_eq (hal : s.len.toNat % s.bsize = 0) :
    s.encStep env m = { s with
      buf := (s.encStep env m).buf, dlt := (s.encStep env m).dlt,
      dcnt := if m = .rd then BitVec.ofNat 21 s.blockCount else s.dcnt,
      cv := (s.encStep env m).cv, pv := (s.encStep env m).pv,
      draws := s.draws + if m = .rd then s.len.toNat else 0 } := by
  by_cases hm : m = .rd
  · subst hm
    rw [← State.blockBytes_eq hal]
    rfl
  · rw [State.encStep_of_ne hm, if_neg hm, if_neg hm]
    rfl

/-! ## ENCF -/

/-- Settles O37: the padding step leaves the padded data, and the chaining step of an encryption runs over it. -/
theorem encfPadsThenEncrypts : Obligations.EncfPadsThenEncrypts := by
  unfold Obligations.EncfPadsThenEncrypts
  intro s m p hI herr hm hp hB hnone hfit hchv L L' nb k δs r
  have h : s.EncfPasses m p := ⟨hm, hp, fun hc => by have := hB hc; omega, hnone, hfit, hchv⟩
  let t := s.padStep Config.env p
  have htI : t.Inv := h.padStep_inv hI
  have hlen : t.len.toNat = L' := h.padStep_len hI
  have hal : t.len.toNat % t.bsize = 0 := h.padStep_aligned hI
  have hcount : t.blockCount = nb := congrArg (· / s.bsize) hlen
  have hdata : t.data = padApply Config.env s.draws s.bsize p (s.buf.readN 0 L) := State.padStep_data hI hfit
  have hdeltas : t.encDeltas Config.env m = δs := by
    rw [State.encDeltas, hcount, hlen]
    rfl
  have hresult : ((t.encStep Config.env m).buf.blocks 0 t.bsize t.blockCount, (t.encStep Config.env m).chain) = r := by
    rw [State.encStep_result htI (h.padStep_len_le hI) hal, hcount, hdata, hdeltas]
    rfl
  obtain ⟨hblocks, hchain⟩ := Prod.mk.inj hresult
  have hstep := State.encStep_eq (env := Config.env) (m := m) hal
  have hcv : (t.encStep Config.env m).cv = r.2.cv := congrArg Chain.cv hchain
  have hpv : (t.encStep Config.env m).pv = r.2.pv := congrArg Chain.pv hchain
  rw [hcount, hlen, hcv, hpv] at hstep
  refine ⟨(t.encStep Config.env m).buf, (t.encStep Config.env m).dlt,
    (exec_encf_of_passes herr h).trans (congrArg _ hstep), hI.1.toNat_ofNat hfit, hcount ▸ hblocks, fun a ha => ?_,
    fun hrd => (State.encStep_deltas hrd t).1, ?_⟩
  · rw [State.encStep_buf_of_ge htI (hlen.trans_le ha)]
    exact State.padStep_buf_of_outside hI.one_le_bsize (.inr ha)
  · rintro rfl
    refine ⟨?_, fun a ha => State.drawDeltas_dlt_of_ge (hlen.trans_le ha)⟩
    rw [← hlen]
    exact State.drawDeltas_deltaBytes htI hal

/-! ## DECF -/

/-- The data after a transform is the output of its run (R160). -/
theorem State.transform_data (hf : KeepsSizes f) (hI : s.Inv) (hal : s.len.toNat % s.bsize = 0) :
    (s.transform (chainRun f)).data = (chainRun f s.chain s.blockInputs).1.flatten := by
  rw [← State.transform_blocks hf hI, Memory.flatten_blocks, State.blockBytes_eq hal]
  rfl

/-- Settles O38: the chaining step leaves the decrypted data, and the removal step acts on the answer of the removal. -/
theorem decfDecryptsThenRemoves : Obligations.DecfDecryptsThenRemoves := by
  unfold Obligations.DecfDecryptsThenRemoves
  intro s m p hI herr hm hp hw hlen hal hchv hdelta n r d c
  have h : s.DecfPasses m p :=
    ⟨hm, hp, fun hc => ⟨by have := (hw hc).1; omega, (hw hc).2⟩, hlen, hal, hchv, hdelta⟩
  have hf := decBlock_keepsSizes Config.env m
  have ⟨_, hblocks, _⟩ := hI
  let t := s.decStep Config.env m
  have hdata : t.data = d := State.transform_data hf hI hal
  have hlength : t.data.length = s.len.toNat := t.length_data
  have hkeep : BitVec.ofNat 21 t.data.length = s.len := by rw [hlength, BitVec.ofNat_toNat, BitVec.setWidth_eq]
  have hcount : padCount t.data = c := by rw [padCount_eq_getD, hlength, hdata]
  have hvalid : ∀ {b}, padValid s.bsize p d = b → padValid t.bsize p t.data = b := fun hv => hdata ▸ hv
  refine ⟨t.buf, hdata, fun a => State.transform_buf_of_ge hf hblocks, ?_⟩
  rw [exec_decf_of_passes herr h]
  refine ⟨?_, ?_, fun hc hv => congrArg _ ?_, fun hc hv hs => congrArg _ ?_, fun hc hv hs => congrArg _ ?_⟩
  · rintro rfl
    exact congrArg _ ((State.removeStep_of_ok padRemove_none).trans (by rw [hkeep]; rfl))
  · rintro rfl
    exact congrArg _ ((State.removeStep_of_ok padRemove_zeros).trans (by rw [hdata]; rfl))
  · have hleft : (t.data.take (t.data.length - padCount t.data)).length = s.len.toNat - c := by
      rw [List.length_take, hlength, hcount, Nat.min_eq_left (Nat.sub_le _ _)]
    exact (State.removeStep_of_ok (padRemove_of_valid hc (hvalid hv) t.strict)).trans (by rw [hleft]; rfl)
  · have hlenient : padRemove t.bsize p t.strict t.data = .ok (t.data, true) :=
      hs ▸ padRemove_lenient_of_invalid hc (hvalid hv)
    exact (State.removeStep_of_ok hlenient).trans (by rw [hkeep]; rfl)
  · have hstrict : padRemove t.bsize p t.strict t.data = .error .pad :=
      hs ▸ padRemove_strict_of_invalid hc (hvalid hv)
    exact State.removeStep_of_error hstrict

end Sys2Proof.Machine
end

section
/-! SUPPORT and PROOFS. `ENCF`, `START` and `DECF` give the data back (R209). -/

namespace Sys2Proof.Machine

variable {s t : State} {m : Mode} {p : Scheme} {env : Env} {B k : Nat}

/-- What a removal answers on padded data: the data, under Zeros without its own zero tail (R126). -/
theorem padRemove_of_padded (hB : 1 ≤ B) (hwide : p.countBearing = true → B ≤ 255) (strict : Bool) (d : List Byte) :
    padRemove B p strict (padApply env k B p d) = .ok (if p = .zeros then stripZeros d else d, false) := by
  cases p
  case none => rw [padRemove_none, padApply_none]; rfl
  case zeros => rw [padRemove_zeros, stripZeros_padApply]; rfl
  all_goals exact padRemove_padApply hB (hwide rfl) rfl strict d

/-- The effect of `START` (R166). -/
def State.started (s : State) : State := (s.setChain s.iv s.iv).setChv true

theorem State.startCommand_of_ivv (herr : s.err = none) (hivv : s.ivv = true) : s.startCommand = s.started :=
  State.command_of_pass herr (by simp [State.startChecks, hivv])

/-- A decryption that starts in the chain state of an encryption, on its output and with its deltas, gives back the data that
the encryption started from (R8, R160). -/
theorem State.decStep_data_of_encrypted (hE : env.CipherInverse s.bsize) (hI : s.Inv)
    (hal : s.len.toNat % s.bsize = 0) (htI : t.Inv) (hB : t.bsize = s.bsize) (hlen : t.len = s.len)
    (hchain : t.chain = s.chain)
    (hinputs : t.blockInputs = (chainEnc env m s.chain s.blockInputs).1.zip (s.blockInputs.map Prod.snd)) :
    (t.decStep env m).data = s.data := by
  obtain ⟨-, ⟨-, hcv, hpv⟩, -⟩ := hI
  have htal : t.len.toNat % t.bsize = 0 := by rwa [hB, hlen]
  have hblocks : s.blockInputs.map Prod.fst = s.buf.blocks 0 s.bsize s.blockCount := List.map_fst_zip (by simp)
  have hback := congrArg Prod.fst (chainDec_chainEnc (m := m) (c := s.chain) hE ⟨hcv, hpv⟩ s.blockInputs_sized)
  calc (t.decStep env m).data
    _ = (chainDec env m t.chain t.blockInputs).1.flatten := State.transform_data (decBlock_keepsSizes env m) htI htal
    _ = (s.buf.blocks 0 s.bsize s.blockCount).flatten := by rw [hchain, hinputs, hback, hblocks]
    _ = s.data := by rw [Memory.flatten_blocks, State.blockBytes_eq hal]; rfl

/-- Right after `START`, an encrypting transform, `START` and a decrypting one give the data back (R209). -/
theorem State.started_transform_decStep (hE : env.CipherInverse s.bsize) (hI : s.Inv) (hlen : s.len.toNat ≤ s.capr)
    (hal : s.len.toNat % s.bsize = 0) (hivv : s.ivv = true) (hchain : s.chain = ⟨s.iv, s.iv⟩) :
    ((s.transform (chainEnc env m)).started.decStep env m).data = s.data := by
  have hdeltas : s.blockInputs.map Prod.snd = s.dlt.blocks 0 s.bsize s.blockCount := List.map_snd_zip (by simp)
  have houtput : (s.transform (chainEnc env m)).buf.blocks 0 s.bsize s.blockCount =
      (chainEnc env m s.chain s.blockInputs).1 := State.transform_blocks (encBlock_keepsSizes env m) hI
  refine State.decStep_data_of_encrypted hE hI hal (State.startChain_inv (State.chainEnc_inv hI hlen) hivv)
    (by simp [State.started]) (by simp [State.started]) hchain.symm ?_
  rw [hdeltas, ← houtput]
  simp [State.blockInputs, State.blockCount, State.started]

/-- After `ENCF` and `START` no precondition of `DECF` fails (R209). -/
theorem State.EncfPasses.decfPasses (hI : s.Inv) (h : s.EncfPasses m p) :
    ((s.padStep env p).encStep env m).started.DecfPasses m p := by
  have hlen := h.padStep_len (env := env) hI
  have hle := h.padStep_len_le (env := env) hI
  have hal := h.padStep_aligned (env := env) hI
  have hfilled : p.countBearing = true → (s.padStep env p).len ≠ 0 := fun hc hzero => by
    have hpos : 1 ≤ padLen s.bsize p s.len.toNat := padLen_pos hI.one_le_bsize hc
    have hnone : s.len.toNat + padLen s.bsize p s.len.toNat = 0 := by rw [← hlen, hzero]; rfl
    omega
  have hdcnt : m = .rd → ((s.padStep env p).encStep env m).dcnt.toNat = (s.padStep env p).len.toNat / s.bsize := by
    rintro rfl
    exact hI.1.toNat_ofNat ((Nat.div_le_self _ _).trans hle)
  constructor
  case mode => simpa [State.started] using h.mode
  case scheme => simpa [State.started] using h.scheme
  case counted => simpa [State.started] using fun hc => ⟨h.narrow hc, hfilled hc⟩
  case len_le => simpa [State.started] using hle
  case aligned => simpa [State.started] using hal
  case chain => exact fun _ => rfl
  case deltas => simpa [State.started] using hdcnt

/-- Right after `START`, the two steps of `ENCF`, `START` and the chaining step of `DECF` leave the padded data (R209). -/
theorem State.EncfPasses.decrypted_data (hE : env.CipherInverse s.bsize) (hI : s.Inv) (h : s.EncfPasses m p)
    (hivv : s.ivv = true) (hchain : s.chain = ⟨s.iv, s.iv⟩) :
    (((s.padStep env p).encStep env m).started.decStep env m).data = padApply env s.draws s.bsize p s.data := by
  obtain ⟨hB, hcap, hlen, -, hiv, hivv', hchain', -, hdata⟩ := (s.padStep env p).withDeltas_frame env m
  have hle := h.padStep_len_le (env := env) hI
  rw [State.encStep_eq_transform, State.started_transform_decStep (by rwa [hB])
    (State.withDeltas_inv (h.padStep_inv hI) hle) (by rwa [hlen, hcap]) (by rw [hlen, hB]; exact h.padStep_aligned hI)
    (hivv'.trans hivv) (by rw [hchain', hiv]; exact hchain), hdata]
  exact State.padStep_data hI h.padded_le

/-- A removal without error leaves the data it answers and its verdict, and no error where there was none (R131, R132). -/
theorem State.removeStep_of_ok_result {d : List Byte} {bad : Bool} (opc : Byte) (herr : s.err = none)
    (hr : padRemove s.bsize p s.strict s.data = .ok (d, bad)) :
    (s.removeStep opc p).data = d ∧ (s.removeStep opc p).padbad = bad ∧ (s.removeStep opc p).err = none := by
  refine ⟨State.removeStep_data_of_ok hr, ?_, ?_⟩ <;> rw [State.removeStep_of_ok hr]
  exact herr

/-- Settles O41: the chaining step of `DECF` leaves the padded data, from which the removal gives the data back. -/
theorem encryptThenDecryptGivesTheDataBack : Obligations.EncryptThenDecryptGivesTheDataBack := by
  unfold Obligations.EncryptThenDecryptGivesTheDataBack
  refine ⟨fun s => ⟨rfl, rfl, rfl⟩, ?_⟩
  intro env s m p hE hI herr hm hp hB hnone hfit hivv hchv hcv hpv u
  have h : s.EncfPasses m p := ⟨hm, hp, fun hc => by have := hB hc; omega, hnone, hfit, fun _ => hchv⟩
  have hchain : s.chain = ⟨s.iv, s.iv⟩ := by rw [State.chain, hcv, hpv]
  have hdata := h.decrypted_data hE hI hivv hchain
  have hpass := h.decfPasses (env := env) hI
  have henc : s.encfCommand env = (s.padStep env p).encStep env m := State.encfCommand_of_passes herr h
  rw [← henc] at hdata hpass
  have herre : (s.encfCommand env).err = none := by simp [henc, herr]
  have hivve : (s.encfCommand env).ivv = true := by
    rw [henc, State.encStep_eq (h.padStep_aligned hI)]
    exact hivv
  have hu : u = ((s.encfCommand env).started.decStep env m).removeStep Instr.decf.opcode p := by
    rw [← State.decfCommand_of_passes (s := (s.encfCommand env).started) herre hpass,
      ← State.startCommand_of_ivv herre hivve]
  have hsize : ((s.encfCommand env).started.decStep env m).bsize = s.bsize := by simp [henc, State.started]
  rw [hu]
  refine State.removeStep_of_ok_result _ ?_ ?_
  · simp [State.started, herre]
  · rw [hdata, hsize]
    exact padRemove_of_padded hI.one_le_bsize hB _ s.data

end Sys2Proof.Machine
end

section
/-! SUPPORT and PROOFS. `NOP`, `CLRERR` and `SRST` (R220 to R222), what a pending error drops and what it does not disturb
(R223, R246), and the return from an error (R247, R248). -/

namespace Sys2Proof.Machine

variable {s t : State} {i : Instr} {w : Word} {a : HostAction} {e : Err}

/-! ## The system commands -/

/-- Settles O6: 0x00000000 is the word of `NOP`, and no other word decodes to it. -/
theorem nopChangesNothing : Obligations.NopChangesNothing := by
  unfold Obligations.NopChangesNothing
  exact ⟨decode_encode .nop, fun h => absurd (eq_encode_of_decode h) (by decide), fun _ => rfl⟩

/-- Without an error `CLRERR` has nothing to clear (R221, R39). -/
theorem State.clearErr_of_none (hF : s.FlagsOk) (h : s.err = none) : s.clearErr = s := by
  rw [State.clearErr, ← hF.2 h, ← h]

/-- Without an error `STATUS` shows its bits 6:4 only (R32). -/
theorem State.statusWord_clearErr (s : State) : s.clearErr.statusWord = s.statusWord &&& 0x00000070#32 := by
  refine BitVec.eq_of_getLsbD_eq fun n hn => ?_
  rw [BitVec.getLsbD_and, State.getLsbD_statusWord, State.getLsbD_statusWord, State.errField_eq_zero.2 s.clearErr_err]
  interval_cases n <;> simp

/-- Settles O7: the two error fields are cleared, which are 0 when no error is pending. -/
theorem clrerrClearsTheError : Obligations.ClrerrClearsTheError := by
  unfold Obligations.ClrerrClearsTheError
  exact ⟨decode_encode .clrerr, fun s =>
    ⟨rfl, s.statusWord_clearErr, fun h hF => congrArg _ (State.clearErr_of_none hF h)⟩⟩

/-- Settles O8: the soft reset leaves the four register words 0. -/
theorem srstResetsTheRegisters : Obligations.SrstResetsTheRegisters := by
  unfold Obligations.SrstResetsTheRegisters
  refine ⟨decode_encode .srst, fun s => ⟨s.softReset, rfl, ?_⟩⟩
  obtain ⟨hctrl, hlen, hdcnt, hstatus⟩ := s.softReset_words
  exact ⟨hctrl, hlen, hdcnt, hstatus, rfl⟩

/-! ## A pending error and the host's accesses -/

/-- While an error is pending every command but the system commands is dropped (R223). -/
theorem exec_of_pending_err (h : s.err ≠ none) (hnop : i ≠ .nop) (hclrerr : i ≠ .clrerr) (hsrst : i ≠ .srst) :
    exec i s = .next s := by
  cases i with
  | nop => exact absurd rfl hnop
  | clrerr => exact absurd rfl hclrerr
  | srst => exact absurd rfl hsrst
  | ldiv | start | pad | unpad | enc | dec | encf | decf => exact congrArg _ (State.command_of_err h)

/-- `s` with another error pending, or none. -/
def State.withErr (err : Option Err) (errcmd : Byte) (s : State) : State := { s with err := err, errcmd := errcmd }

/-- Of the registers, only `STATUS` shows the error (R32). -/
theorem State.regValue_withErr {off : Nat} (h : off ≠ 0x0C) (err : Option Err) (errcmd : Byte) (s : State) :
    (s.withErr err errcmd).regValue off = s.regValue off := by
  unfold State.regValue
  split
  case h_4 => exact absurd rfl h -- the row of `STATUS`
  all_goals rfl

theorem State.writeReg_withErr (off : Nat) (w : Word) (err : Option Err) (errcmd : Byte) (s : State) :
    (s.withErr err errcmd).writeReg off w = (s.writeReg off w).withErr err errcmd := by
  unfold State.writeReg
  split
  case h_1 => -- the row of `CTRL`, whose write looks at `MODE`
    rw [State.writeCtrl_eq, State.writeCtrl_eq]
    rfl
  all_goals rfl

theorem State.winValue_withErr (sp : Space) (k : Nat) (err : Option Err) (errcmd : Byte) (s : State) :
    (s.withErr err errcmd).winValue sp k = s.winValue sp k := by
  cases sp <;> rfl

theorem State.writeWin_withErr (sp : Space) (k : Nat) (v : Byte) (err : Option Err) (errcmd : Byte) (s : State) :
    (s.withErr err errcmd).writeWin sp k v = (s.writeWin sp k v).withErr err errcmd := by
  unfold State.writeWin
  rw [apply_ite (State.withErr err errcmd)]
  cases sp <;> rfl

/-- A host action that neither writes `CMD` nor reads `STATUS` does and answers the same whatever error is pending (R223). -/
theorem perform_withErr (hlegal : a.legal = true) (hcmd : ∀ w, a ≠ .regWrite 0x08 w) (hstatus : a ≠ .regRead 0x0C)
    (s : State) : ∃ t, perform a s = .next t ∧
      ∀ err errcmd, perform a (s.withErr err errcmd) = .next (t.withErr err errcmd) := by
  cases a with
  | regRead off =>
    have hoff : off ≠ 0x0C := fun h => hstatus (h ▸ rfl)
    refine ⟨_, perform_regRead hlegal s, fun err errcmd => ?_⟩
    rw [perform_regRead hlegal, State.regValue_withErr hoff]
    rfl
  | regWrite off w =>
    have hoff : off ≠ 0x08 := fun h => hcmd w (h ▸ rfl)
    refine ⟨_, perform_regWrite hlegal hoff w s, fun err errcmd => ?_⟩
    rw [perform_regWrite hlegal hoff, State.writeReg_withErr]
  | winRead sp k =>
    refine ⟨_, perform_winRead sp k s, fun err errcmd => ?_⟩
    rw [perform_winRead, State.winValue_withErr]
    rfl
  | winWrite sp k v =>
    refine ⟨_, perform_winWrite sp k v s, fun err errcmd => ?_⟩
    rw [perform_winWrite, State.writeWin_withErr]

/-- Settles O9: a pending error drops the checked commands; of the other host actions only the read of `STATUS` shows it. -/
theorem pendingErrorDropsCommands : Obligations.PendingErrorDropsCommands := by
  unfold Obligations.PendingErrorDropsCommands
  intro s h
  refine ⟨fun i => exec_of_pending_err h, ⟨rfl, rfl, rfl⟩, fun w e he => ?_, fun a hlegal hcmd hstatus => ?_,
    perform_regRead rfl s, ?_, s.statusWord_errcmd, s.statusWord_clearErr.symm⟩
  · rw [perform_cmd, issue_of_error he]
    exact congrArg _ (State.command_of_err h)
  · obtain ⟨u, hu, hsame⟩ := perform_withErr hlegal hcmd hstatus s.clearErr
    exact ⟨u, hu, hsame s.err s.errcmd⟩
  · rw [State.statusWord_err, ne_eq, State.errField_eq_zero]
    exact h

/-! ## The return from an error -/

/-- A command that raises an error does nothing else, but for `E_PAD` of `DECF`, which comes after the decryption (R244). -/
theorem CommandResult.eq_raise (h : CommandResult s i t) (herr : s.err = none) (he : t.err = some e)
    (hpad : ¬ (i = .decf ∧ e = .pad)) : t = s.raise e i.opcode := by
  cases h with
  | raised => rw [Option.some.inj he]
  | unpad p =>
    obtain ⟨n, bad, -, hr⟩ | hr := s.removeStep_cases Instr.unpad.opcode p <;> rw [hr] at he ⊢
    · simp [herr] at he
    · obtain rfl := Option.some.inj he
      rfl
  | @decf m p =>
    obtain ⟨n, bad, -, hr⟩ | hr := (s.decStep Config.env m).removeStep_cases Instr.decf.opcode p <;> rw [hr] at he
    · simp [herr] at he
    · exact absurd ⟨rfl, (Option.some.inj he).symm⟩ hpad
  | _ => simp [herr] at he

/-- A word written to `CMD` that raises an error does nothing else, but for `E_PAD` of `DECF` (R243, R244). -/
theorem issue_eq_raise (h : issue w s = .next t) (herr : s.err = none) (he : t.err = some e)
    (hpad : ¬ (w = encode .decf ∧ e = .pad)) : t = s.raise e (opcField w) := by
  obtain ⟨i, rfl, hres⟩ | rfl := issue_cases h
  · rw [(eq_encode_iff.1 rfl).2]
    exact hres.eq_raise herr he fun ⟨hi, hep⟩ => hpad ⟨hi ▸ rfl, hep⟩
  · obtain ⟨hpending, -⟩ | ⟨-, hraise⟩ := s.illegalCommand_cases w
    · exact absurd herr hpending
    · rw [hraise] at he ⊢
      obtain rfl := Option.some.inj he
      rfl

/-- Settles O11: the failing command has only raised its error, and clearing that gives the state without an error. -/
theorem clrerrRestoresTheStateBeforeTheError : Obligations.ClrerrRestoresTheStateBeforeTheError := by
  unfold Obligations.ClrerrRestoresTheStateBeforeTheError
  intro w s t e hF herr h he hpad
  obtain rfl := issue_eq_raise h herr he hpad
  exact congrArg _ (State.clearErr_of_none hF herr)

end Sys2Proof.Machine
end

section
/-! SUPPORT and PROOFS. What an error records (R243, R244), and that a command reports the first precondition it violates
in the fixed priority (R233 to R242, R245). -/

namespace Sys2Proof.Machine

variable {s t : State} {i : Instr} {w : Word} {e e₁ e₂ : Err} {p : Scheme} {opc : Byte} {cs : List (Bool × Err)}
  {body : State}

/-! ## What an error records -/

/-- The one error of the removal step is `E_PAD` (R241). -/
theorem State.removeStep_eq_raise (herr : s.err = none) (he : (s.removeStep opc p).err = some e) :
    s.removeStep opc p = s.raise .pad opc ∧ e = .pad := by
  obtain ⟨n, bad, -, hr⟩ | hr := s.removeStep_cases opc p <;> rw [hr] at he
  · simp [herr] at he
  · exact ⟨hr, (Option.some.inj he).symm⟩

/-- A command that raises an error, even one that comes after its effect, records its own opcode (R243). -/
theorem CommandResult.errcmd (h : CommandResult s i t) (herr : s.err = none) (he : t.err = some e) :
    t.errcmd = i.opcode := by
  cases h with
  | raised => rfl
  | unpad p =>
    rw [(State.removeStep_eq_raise herr he).1]
    rfl
  | @decf m p =>
    have hdec : (s.decStep Config.env m).err = none := by simp [herr]
    rw [(State.removeStep_eq_raise hdec he).1]
    rfl
  | _ => simp [herr] at he

/-- A word written to `CMD` that raises an error leaves its bits 7:0 in `ERRCMD` (R243). -/
theorem issue_errcmd (h : issue w s = .next t) (herr : s.err = none) (he : t.err = some e) :
    t.errcmd = opcField w := by
  obtain ⟨i, rfl, hres⟩ | rfl := issue_cases h
  · rw [(eq_encode_iff.1 rfl).2]
    exact hres.errcmd herr he
  · obtain ⟨hpending, -⟩ | ⟨-, hraise⟩ := s.illegalCommand_cases w
    · exact absurd herr hpending
    · rw [hraise]
      rfl

/-- Settles O10: the opcode is recorded with every error, and all but `E_PAD` of `DECF` are raised on the old state. -/
theorem errorsChangeNothingElse : Obligations.ErrorsChangeNothingElse := by
  unfold Obligations.ErrorsChangeNothingElse
  intro w s t e herr h he
  exact ⟨issue_errcmd h herr he, issue_eq_raise h herr he⟩

/-! ## Checks in the order of their priority -/

/-- No two errors have the same place in R245. -/
theorem Err.rank_injective (h : e₁.rank = e₂.rank) : e₁ = e₂ := by
  revert h; cases e₁ <;> cases e₂ <;> decide

/-- In a list of checks in the order of R245, the first failing check is the failing one of highest priority. -/
theorem firstFailing_eq_some_iff (hsorted : cs.Pairwise fun c d => c.2.rank ≤ d.2.rank) :
    firstFailing cs = some e ↔ (true, e) ∈ cs ∧ ∀ e' : Err, e'.rank < e.rank → (true, e') ∉ cs := by
  induction cs with
  | nil => simp
  | cons c rest ih =>
    obtain ⟨failed, e₀⟩ := c
    obtain ⟨hhead, hrest⟩ := List.pairwise_cons.1 hsorted
    cases failed with
    | false => simp [ih hrest]
    | true =>
      have hle : ∀ e' : Err, (true, e') ∈ (true, e₀) :: rest → e₀.rank ≤ e'.rank := by
        rintro e' (_ | ⟨_, hmem⟩)
        · exact le_rfl
        · exact hhead _ hmem
      rw [firstFailing_cons, if_pos rfl, Option.some_inj]
      constructor
      · rintro rfl
        exact ⟨List.mem_cons_self, fun e' hlt hmem => absurd (hle e' hmem) (Nat.not_le.2 hlt)⟩
      · rintro ⟨hmem, hmin⟩
        exact Err.rank_injective ((hle e hmem).antisymm (Nat.not_lt.1 fun hlt => hmin e₀ hlt List.mem_cons_self))

/-! ## Every command as its checks and its effect -/

/-- The checks of a command; the system commands make none (R220 to R222). -/
def State.checks (s : State) : Instr → List (Bool × Err)
  | .nop | .clrerr | .srst => []
  | .ldiv => s.ldivChecks
  | .start => s.startChecks
  | .pad => s.padChecks
  | .unpad => s.unpadChecks
  | .enc => s.encChecks
  | .dec => s.decChecks
  | .encf => s.encfChecks
  | .decf => s.decfChecks

/-- What a command does when no check of it fails. -/
def State.effect (s : State) : Instr → State
  | .nop => s
  | .clrerr => s.clearErr
  | .srst => s.softReset
  | .ldiv => s.loadIv (s.buf.readN 0 s.bsize)
  | .start => (s.setChain s.iv s.iv).setChv true
  | .pad => s.padEffect Config.env
  | .unpad => s.unpadEffect
  | .enc => s.encEffect Config.env
  | .dec => s.decEffect Config.env
  | .encf => s.encfEffect Config.env
  | .decf => s.decfEffect Config.env

/-- With no error pending every command makes its checks and then has its effect (R14). -/
theorem exec_eq_command (herr : s.err = none) (i : Instr) :
    exec i s = .next (s.command i.opcode (s.checks i) (s.effect i)) := by
  cases i with
  | nop | clrerr | srst => exact congrArg Host.Outcome.next (State.command_of_pass herr rfl).symm
  | ldiv | start | pad | unpad | enc | dec | encf | decf => rfl

/-- The only error that an effect leaves is `E_PAD`, of the two commands that remove a padding (R241). -/
theorem State.effect_err (herr : s.err = none) (he : (s.effect i).err = some e) : e = .pad := by
  cases i with
  | nop | clrerr | srst | ldiv | start => simp [State.effect, herr] at he
  | pad => obtain ⟨p, -, h⟩ | h := s.padEffect_cases Config.env <;> simp [State.effect, h, herr] at he
  | enc => obtain ⟨m, -, h⟩ | h := s.encEffect_cases Config.env <;> simp [State.effect, h, herr] at he
  | dec => obtain ⟨m, -, h⟩ | h := s.decEffect_cases Config.env <;> simp [State.effect, h, herr] at he
  | encf => obtain ⟨m, p, -, -, h⟩ | h := s.encfEffect_cases Config.env <;> simp [State.effect, h, herr] at he
  | unpad =>
    obtain ⟨p, -, h⟩ | h := s.unpadEffect_cases <;> rw [State.effect, h] at he
    · exact (State.removeStep_eq_raise herr he).2
    · simp [herr] at he
  | decf =>
    obtain ⟨m, p, -, -, h⟩ | h := s.decfEffect_cases Config.env <;> rw [State.effect, h] at he
    · exact (State.removeStep_eq_raise (by simp [herr]) he).2
    · simp [herr] at he

/-- A command raises an error that its effect does not leave exactly when the first failing check is that error's. -/
theorem State.command_err_iff (herr : s.err = none) (hbody : body.err ≠ some e) :
    (s.command opc cs body).err = some e ↔ firstFailing cs = some e := by
  obtain ⟨h, -⟩ | ⟨-, e', hf, h⟩ | ⟨-, hf, h⟩ := s.command_cases opc cs body
  · exact absurd herr h
  · rw [h, hf]
    rfl
  · rw [h, hf]
    exact iff_of_false hbody nofun

/-- A command sets `ERR` to an error other than `E_PAD` exactly when the first of its checks to fail is that error's. -/
theorem exec_err_iff (herr : s.err = none) (he : e ≠ .pad) :
    (∃ t, exec i s = .next t ∧ t.err = some e) ↔ firstFailing (s.checks i) = some e := by
  have hbody : (s.effect i).err ≠ some e := fun h => he (State.effect_err herr h)
  rw [← State.command_err_iff (opc := i.opcode) herr hbody, exec_eq_command herr]
  simp

/-- Every command makes its checks in the order of R245. -/
theorem State.checks_sorted (s : State) (i : Instr) : (s.checks i).Pairwise fun c d => c.2.rank ≤ d.2.rank := by
  cases i <;> simp [State.checks, State.ldivChecks, State.startChecks, State.padChecks, State.unpadChecks,
    State.encChecks, State.decChecks, State.encfChecks, State.decfChecks, Err.rank]

/-! ## The checks are the preconditions -/

/-- A command violates the precondition that an error's rule gives exactly when its check for that error fails: each check
is the condition of its rule (R233 to R242), and each command makes the checks of the rules that name it. -/
theorem violates_iff : Violates i e s ↔ (true, e) ∈ s.checks i := by
  cases i with
  | nop | clrerr | srst => cases e <;> simp [Violates, State.checks]
  | ldiv => cases e <;> simp [Violates, State.checks, State.ldivChecks]
  | start => cases e <;> simp [Violates, State.checks, State.startChecks]
  | pad =>
    cases e <;> simp [Violates, State.checks, State.padChecks, State.padReserved_iff,
      State.padTooWide_iff, State.noneUnaligned_iff, State.padOverflows_iff]
  | unpad =>
    cases e <;> simp [Violates, State.checks, State.unpadChecks, State.padReserved_iff,
      State.padTooWide_iff, State.emptyCounted_iff]
  | enc =>
    cases e <;> simp [Violates, State.checks, State.encChecks, State.modeReserved_iff,
      State.noChain_iff]
  | dec =>
    cases e <;> simp [Violates, State.checks, State.decChecks, State.modeReserved_iff,
      State.noChain_iff, State.deltasMissing_iff]
  | encf =>
    cases e <;> simp [Violates, State.checks, State.encfChecks, State.modeReserved_iff,
      State.padReserved_iff, State.padTooWide_iff, State.noneUnaligned_iff, State.padOverflows_iff, State.noChain_iff]
  | decf =>
    cases e <;> simp [Violates, State.checks, State.decfChecks, State.modeReserved_iff,
      State.padReserved_iff, State.padTooWide_iff, State.emptyCounted_iff, State.noChain_iff, State.deltasMissing_iff]

/-- Settles O12: the checks of a command are its preconditions, in the order of their priority. -/
theorem firstViolatedPreconditionIsReported : Obligations.FirstViolatedPreconditionIsReported := by
  unfold Obligations.FirstViolatedPreconditionIsReported
  intro i s e herr he
  simp only [violates_iff]
  rw [exec_err_iff herr he]
  exact firstFailing_eq_some_iff (s.checks_sorted i)

end Sys2Proof.Machine
end
